-- ==== Sys2Proof/Word.lean ====
section
/-! DEFINITION. The word types of the engine: what the spec treats as words of a fixed width. -/

namespace Sys2Proof

/-- A command word: every command is one 32-bit word (30_encoding.md R70). -/
abbrev CmdWord := BitVec 32

/-- The 64-bit word of COPYU64 and of the host's container (20_memory.md R44, R47). -/
abbrev Word64 := BitVec 64

/-- A byte of the host's text (20_memory.md R50); the block itself has no bytes (R44). -/
abbrev Byte := BitVec 8

end Sys2Proof
end

