-- ==== Sys2Proof/Syntax.lean ====
section
/-! DEFINITION. The commands of the block: one constructor per row of spec/opcode_table.json (30_encoding.md R73). -/

namespace Sys2Proof

/-- A decoded command. Operands are unsigned integers, zero-extended from their fields (R72); V is one bit. -/
inductive Instr where
  /-- construct the state from DIN (40_construction.md R90) -/
  | load
  /-- the θ phase (41_round_phases.md R100) -/
  | theta
  /-- the ρ phase (R104) -/
  | rho
  /-- the π phase (R106) -/
  | pi
  /-- the χ phase (R107) -/
  | chi
  /-- the ι phase with round index `ir` (R108) -/
  | iota (ir : Nat)
  /-- the last `nr` rounds of the schedule (42_round_sequencer.md R131) -/
  | keccak (nr : Nat)
  /-- XOR DIN into the state, then all R rounds (43_sponge.md R140) -/
  | absorb
  /-- return all state bits (44_extraction.md R150) -/
  | getstate
  /-- return the first 64 state bits as a word (R152) -/
  | copyu64
  /-- read bit (x,y,z) (45_cube_access.md R161) -/
  | rdbit (x y z : Nat)
  /-- write `v` to bit (x,y,z) (R162) -/
  | wrbit (x y z : Nat) (v : Bool)
  /-- return rc(t) (41_round_phases.md R112) -/
  | rcbit (t : Nat)
deriving DecidableEq, Repr

end Sys2Proof
end

