-- ==== Sys2Proof/WellFormed.lean ====
section
/-! DEFINITION. Which commands have a word: every operand fits its field (30_encoding.md R71, R72). This is the
assembler's check (R78): a value that fits its field but lies outside the legal range is well formed, and the
block reports it when the command executes. -/

namespace Sys2Proof

/-- `v` fits an unsigned field of `width` bits. -/
def fitsField (width v : Nat) : Bool := decide (v < 2 ^ width)

/-- Every operand fits its field (R71, R72, R78). -/
def Instr.wellFormed : Instr → Bool
  | .load => true
  | .theta => true
  | .rho => true
  | .pi => true
  | .chi => true
  | .iota ir => fitsField 8 ir
  | .keccak nr => fitsField 6 nr
  | .absorb => true
  | .getstate => true
  | .copyu64 => true
  | .rdbit x y z => fitsField 3 x && fitsField 3 y && fitsField 8 z
  | .wrbit x y z _ => fitsField 3 x && fitsField 3 y && fitsField 8 z
  | .rcbit t => fitsField 16 t

end Sys2Proof
end

