-- ==== Sys2Proof/Decode.lean ====
section
/-! DEFINITION. The decoder, total on every 32-bit word (30_encoding.md R77), and after it the encoder. -/

namespace Sys2Proof

/-- Why a word selects no command. Both are IllegalCommand to the host (R74, R75). -/
inductive DecodeError where
  /-- OP is 0x0, 0xE or 0xF (R74) -/
  | reservedOpcode
  /-- OP selects a command, and a reserved bit is set (R75) -/
  | reservedBits
deriving DecidableEq, Repr

/-- A row of the opcode map: a word selects the row's command exactly when `w AND mask = pattern` (R73). -/
structure OpRow where
  mnemonic : String
  mask : CmdWord
  pattern : CmdWord
deriving DecidableEq, Repr

/-- The thirteen rows of R73 with the masks of their formats (spec/opcode_table.json). -/
def opcodeTable : List OpRow :=
  [⟨"LOAD", 0xFFFFFFFF#32, 0x10000000#32⟩, ⟨"THETA", 0xFFFFFFFF#32, 0x20000000#32⟩,
   ⟨"RHO", 0xFFFFFFFF#32, 0x30000000#32⟩, ⟨"PI", 0xFFFFFFFF#32, 0x40000000#32⟩,
   ⟨"CHI", 0xFFFFFFFF#32, 0x50000000#32⟩, ⟨"IOTA", 0xFFFFFF00#32, 0x60000000#32⟩,
   ⟨"KECCAK", 0xFFFFFFC0#32, 0x70000000#32⟩, ⟨"ABSORB", 0xFFFFFFFF#32, 0x80000000#32⟩,
   ⟨"GETSTATE", 0xFFFFFFFF#32, 0x90000000#32⟩, ⟨"COPYU64", 0xFFFFFFFF#32, 0xA0000000#32⟩,
   ⟨"RDBIT", 0xF0003FFF#32, 0xB0000000#32⟩, ⟨"WRBIT", 0xF0003FFE#32, 0xC0000000#32⟩,
   ⟨"RCBIT", 0xFFFF0000#32, 0xD0000000#32⟩]

/-- `bits[lo+width-1 : lo]` of a command word as an unsigned integer (00_scope.md R9, 30_encoding.md R72). -/
def field (w : CmdWord) (lo width : Nat) : Nat := (w.extractLsb' lo width).toNat

/-- The second check of R77: `i` if every fixed bit of the row is as the table has it. -/
def checkFixed (w mask pattern : CmdWord) (i : Instr) : Except DecodeError Instr :=
  if w &&& mask = pattern then .ok i else .error .reservedBits

/-- `decode(w)` of R77, with the masks and match values of R73 and the fields of R72. -/
def decode (w : CmdWord) : Except DecodeError Instr :=
  match field w 28 4 with
  | 0x1 => checkFixed w 0xFFFFFFFF#32 0x10000000#32 .load
  | 0x2 => checkFixed w 0xFFFFFFFF#32 0x20000000#32 .theta
  | 0x3 => checkFixed w 0xFFFFFFFF#32 0x30000000#32 .rho
  | 0x4 => checkFixed w 0xFFFFFFFF#32 0x40000000#32 .pi
  | 0x5 => checkFixed w 0xFFFFFFFF#32 0x50000000#32 .chi
  | 0x6 => checkFixed w 0xFFFFFF00#32 0x60000000#32 (.iota (field w 0 8))
  | 0x7 => checkFixed w 0xFFFFFFC0#32 0x70000000#32 (.keccak (field w 0 6))
  | 0x8 => checkFixed w 0xFFFFFFFF#32 0x80000000#32 .absorb
  | 0x9 => checkFixed w 0xFFFFFFFF#32 0x90000000#32 .getstate
  | 0xA => checkFixed w 0xFFFFFFFF#32 0xA0000000#32 .copyu64
  | 0xB => checkFixed w 0xF0003FFF#32 0xB0000000#32 (.rdbit (field w 25 3) (field w 22 3) (field w 14 8))
  | 0xC => checkFixed w 0xF0003FFE#32 0xC0000000#32 (.wrbit (field w 25 3) (field w 22 3) (field w 14 8) (w.getLsbD 0))
  | 0xD => checkFixed w 0xFFFF0000#32 0xD0000000#32 (.rcbit (field w 0 16))
  | _ => .error .reservedOpcode

/-- The instruction of a word whose bits are `w`, `nbits` of them given and the rest 0. A command is one 32-bit
word and nothing else (R70), so a longer one is refused (log 8). -/
def decodeTableWord (nbits w : Nat) : Option Instr :=
  if nbits ≤ 32 then (decode (BitVec.ofNat 32 (w % 2 ^ nbits))).toOption else none

/-- A format C word (R71): OP, X, Y, Z, thirteen zeros, V. -/
def encodeC (op : BitVec 4) (x y z : Nat) (v : Bool) : CmdWord :=
  op ++ BitVec.ofNat 3 x ++ BitVec.ofNat 3 y ++ BitVec.ofNat 8 z ++ 0#13 ++ BitVec.ofBool v

/-- A format N word (R71): OP and 28 zeros. -/
def encodeN (op : BitVec 4) : CmdWord := op ++ 0#28

/-- The word of a well-formed command, each field where the tables of R71 put it. -/
def encode : Instr → CmdWord
  | .load => encodeN 0x1#4
  | .theta => encodeN 0x2#4
  | .rho => encodeN 0x3#4
  | .pi => encodeN 0x4#4
  | .chi => encodeN 0x5#4
  | .iota ir => 0x6#4 ++ 0#20 ++ BitVec.ofNat 8 ir
  | .keccak nr => 0x7#4 ++ 0#22 ++ BitVec.ofNat 6 nr
  | .absorb => encodeN 0x8#4
  | .getstate => encodeN 0x9#4
  | .copyu64 => encodeN 0xA#4
  | .rdbit x y z => encodeC 0xB#4 x y z false
  | .wrbit x y z v => encodeC 0xC#4 x y z v
  | .rcbit t => 0xD#4 ++ 0#12 ++ BitVec.ofNat 16 t

/-- The OP field of a command (R73). -/
def opcodeOf : Instr → BitVec 4
  | .load => 0x1#4
  | .theta => 0x2#4
  | .rho => 0x3#4
  | .pi => 0x4#4
  | .chi => 0x5#4
  | .iota _ => 0x6#4
  | .keccak _ => 0x7#4
  | .absorb => 0x8#4
  | .getstate => 0x9#4
  | .copyu64 => 0xA#4
  | .rdbit _ _ _ => 0xB#4
  | .wrbit _ _ _ _ => 0xC#4
  | .rcbit _ => 0xD#4

end Sys2Proof
end

