-- ==== Sys2Proof/Config.lean ====
section
/-! DEFINITION. What a build of the block fixes (00_scope.md R6 to R8, 41_round_phases.md R110) and the
platform parameter the spec leaves open (20_memory.md R59). -/

namespace Sys2Proof.Config

/-- The build parameter L, an integer with 0 ≤ L ≤ 6 (00_scope.md R6). No other value has an instance. -/
abbrev Build := Fin 7

/-- W = 2^L, the lane depth (R6). -/
def laneDepth (l : Build) : Nat := 2 ^ l.val

/-- B = 25·W, the number of bits of the state (R7), which is also the sponge's block size (43_sponge.md R141). -/
def stateBits (l : Build) : Nat := 25 * laneDepth l

/-- R = 12 + 2·L, the full round count (R7). -/
def fullRounds (l : Build) : Nat := 12 + 2 * l.val

/-- RHO_SHIFTED, the number of orbit lanes ρ rotates (R8; 90_conflicts.md C1). UNVERIFIED by the spec's own
words (its literals are unaudited), normative for this hardware: log 9. -/
def rhoShifted : Nat := 23

/-- IOTA_BITS = L, the number of candidate positions ι flips (R8). UNVERIFIED as `rhoShifted` is: log 9. -/
def iotaBits (l : Build) : Nat := l.val

/-- The seed of the round-constant register (41_round_phases.md R110). -/
def lfsrSeed : BitVec 8 := 0x01#8

/-- The tap mask of the round-constant register, x^8+x^6+x^5+x^4+1 (R110, decision D20): log 10. -/
def lfsrTaps : BitVec 8 := 0x71#8

/-- The build `State.reset` stands for, L = 3 (W = 8). DESIGN CHOICE (log 1): the spec fixes no build; every
statement of the package is about every build. -/
def buildL : Build := 3

/-- KPE_BASE: the address at which a platform maps its k-th instance. OPEN in the spec (20_memory.md R59, R182),
so a constant without a body: log 14. -/
opaque kpeBase : Nat → Nat

/-- What the host outputs for `value mod 0` of a sample `value`. 00_scope.md R9 defines `a mod n` for n > 0 only and no rule
of the sampler excludes a range of 0, so a free value (none would be no output): DESIGN CHOICE, log 23. -/
opaque zeroRangeSample : Nat → Option Nat

end Sys2Proof.Config
end

