-- ==== Sys2Proof/Machine/State.lean ====
section
/-! DEFINITION. The state of one block instance (10_state.md R20), its ports as a transaction-level model needs them
(R27, R28), the reasons a step can stop, and the state after reset (R33). -/

namespace Sys2Proof.Machine

open Sys2Proof.Config

/-- Why the machine stops with a fault: never. An error of a command is a result in STATUS, and the block goes on
to the next command (60_exceptions.md R170, R177, R187), so no fault has a name and nobody raises one (log 13). -/
inductive Fault where
deriving DecidableEq, Repr

/-- Why a command has no meaning. -/
inductive Refusal where
  /-- Raised by `exec` for a command the model gives no meaning yet. Safe: it only stops. No arm raises it. -/
  | notModelled (mnemonic : String)
deriving DecidableEq, Repr

/-- The error kinds of 60_exceptions.md R171: the block raises the first and the last (R172); the host's container
operations raise the others (R174); nobody raises AllocationFailure. -/
inductive ErrorKind where
  | outOfRange
  | allocationFailure
  | alignmentViolation
  | conversionOverflow
  | illegalCommand
deriving DecidableEq, Repr

/-- What the host does next (00_scope.md R18, 70_reset_and_hazards.md R192): issue a command word with its DIN value of `b`
bits (LOAD and ABSORB read it, R13), or assert reset between commands. -/
inductive HostAction (b : Nat) where
  | command (word : CmdWord) (din : BitVec b)
  | reset
deriving DecidableEq, Repr

/-- The data value of a response (00_scope.md R13, 10_state.md R28). -/
inductive Data where
  | none
  /-- the `b` state bits of GETSTATE -/
  | state (b : Nat) (v : BitVec b)
  /-- the word of COPYU64 -/
  | word (v : Word64)
  /-- the bit of RDBIT or RCBIT -/
  | bit (v : Bool)
deriving DecidableEq, Repr

/-- A response: the STATUS value after the command and the data (R13). -/
structure Response where
  status : BitVec 8
  data : Data
deriving DecidableEq, Repr

/-- One block instance and its ports. `BUF[k][i]` is bit `i` of `buf0` or `buf1` (10_state.md R25); `sel` is SEL, true
for 1 (R26); `status` is STATUS (R24). `l` is the build's L (log 1). `din`, `inbox` and `resp` are the model's own:
the value on DIN (log 3), the host's coming actions (log 2), the last response (log 4). -/
structure State where
  l : Build
  buf0 : BitVec (stateBits l)
  buf1 : BitVec (stateBits l)
  sel : Bool
  status : BitVec 8
  din : BitVec (stateBits l)
  inbox : List (HostAction (stateBits l))
  resp : Option Response
deriving DecidableEq, Repr

/-- The state of a build right after reset: buffers, SEL and STATUS zero (10_state.md R33, 70_reset_and_hazards.md R190),
no response sent (R191); no host action pending and DIN zero (DESIGN CHOICE, log 2 and log 3). -/
def State.resetOf (l : Build) : State :=
  { l := l, buf0 := 0, buf1 := 0, sel := false, status := 0, din := 0, inbox := [], resp := none }

/-- The machine right after reset, for the build `Config.buildL` (DESIGN CHOICE, log 1). -/
def State.reset : State := State.resetOf buildL

end Sys2Proof.Machine
end

