-- ==== Sys2Proof/Machine/Flags.lean ====
section
/-! DEFINITION. STATUS: its fields and its one update rule (10_state.md R24), and the error codes (60_exceptions.md R172). -/

namespace Sys2Proof.Machine

/-- The code of an error kind in STATUS.CODE (R172). -/
def ErrorKind.code : ErrorKind → BitVec 4
  | .outOfRange => 1#4
  | .allocationFailure => 2#4
  | .alignmentViolation => 3#4
  | .conversionOverflow => 4#4
  | .illegalCommand => 5#4

/-- The code of success (R172). -/
def successCode : BitVec 4 := 0#4

/-- STATUS[3:0], the result of the most recent command (R24). -/
def statusCode (st : BitVec 8) : BitVec 4 := st.extractLsb' 0 4

/-- STATUS[4]: some command since reset has failed (R24). -/
def statusSticky (st : BitVec 8) : Bool := st.getLsbD 4

/-- STATUS[7:5], reserved (R24). -/
def statusReserved (st : BitVec 8) : BitVec 3 := st.extractLsb' 5 3

/-- The STATUS byte with the given fields; the reserved field is zero (R24; log 5). -/
def packStatus (sticky : Bool) (code : BitVec 4) : BitVec 8 := 0#3 ++ BitVec.ofBool sticky ++ code

/-- The update after every command (R24): CODE ← code, STICKY ← STICKY OR (code ≠ 0). -/
def updateStatus (st : BitVec 8) (code : BitVec 4) : BitVec 8 :=
  packStatus (statusSticky st || code != 0#4) code

end Sys2Proof.Machine
end

