-- ==== Sys2Proof/Machine/Operands.lean ====
section
/-! DEFINITION. The sizes of an instance, cube coordinates and their linear offsets, the modular steps, and the
operand checks of the commands. -/

namespace Sys2Proof.Machine

open Sys2Proof.Config

/-- W of this instance (00_scope.md R6). -/
def State.w (s : State) : Nat := laneDepth s.l

/-- B of this instance (R7). -/
def State.b (s : State) : Nat := stateBits s.l

/-- R of this instance (R7). -/
def State.rounds (s : State) : Nat := fullRounds s.l

/-- `off(x,y,z) = W·(5y+x) + z` (20_memory.md R40). -/
def off (w x y z : Nat) : Nat := w * (5 * y + x) + z

/-- The x of linear offset `i` (R45). -/
def xOf (w i : Nat) : Nat := i / w % 5

/-- The y of linear offset `i` (R45). -/
def yOf (w i : Nat) : Nat := i / w / 5

/-- The z of linear offset `i` (R45). -/
def zOf (w i : Nat) : Nat := i % w

/-- `(a − b) mod n`, the non-negative remainder (00_scope.md R9), for n > 0. -/
def subMod (a b n : Nat) : Nat := (a + (n - b % n)) % n

/-- The check of 45_cube_access.md R160 passes: the coordinate lies in [0,5)×[0,5)×[0,W). -/
def inCube (w x y z : Nat) : Bool := decide (x < 5) && decide (y < 5) && decide (z < w)

/-- The check of KECCAK passes: NR ≤ R (42_round_sequencer.md R131). -/
def roundsLegal (l : Build) (nr : Nat) : Bool := decide (nr ≤ fullRounds l)

/-- The check of COPYU64 passes: the state has 64 bits (44_extraction.md R152, R153). -/
def hasWord (l : Build) : Bool := decide (64 ≤ stateBits l)

end Sys2Proof.Machine
end

