-- ==== Sys2Proof/Machine/Ops.lean ====
section
/-! DEFINITION. The shared operations: bit sequences, the two buffers through SEL, PHASE, respond and raise
(00_scope.md R10 to R12), reset, and taking a command from the host. -/

namespace Sys2Proof.Machine

open Sys2Proof.Config

/-- The number whose bit `i` is `f i`, for i < n. -/
def bitsNat : Nat → (Nat → Bool) → Nat
  | 0, _ => 0
  | n + 1, f => bitsNat n f + (if f n then 2 ^ n else 0)

/-- The sequence of `n` bits whose bit `i` is `f i`. -/
def bitsOf (n : Nat) (f : Nat → Bool) : BitVec n := BitVec.ofNat n (bitsNat n f)

/-- The sequence of B bits whose bit at `off(x,y,z)` is `f x y z` (20_memory.md R40, R45). -/
def cubeBits (l : Build) (f : Nat → Nat → Nat → Bool) : BitVec (stateBits l) :=
  bitsOf (stateBits l) fun i => f (xOf (laneDepth l) i) (yOf (laneDepth l) i) (zOf (laneDepth l) i)

/-- BUF[SEL], the active buffer (00_scope.md R10). -/
def State.actBuf (s : State) : BitVec (stateBits s.l) := bif s.sel then s.buf1 else s.buf0

/-- BUF[1−SEL], the scratch buffer (R10). -/
def State.scrBuf (s : State) : BitVec (stateBits s.l) := bif s.sel then s.buf0 else s.buf1

/-- `ACT[i]` (R10). -/
def State.act (s : State) (i : Nat) : Bool := s.actBuf.getLsbD i

/-- `SCR[i]` (R10). -/
def State.scr (s : State) (i : Nat) : Bool := s.scrBuf.getLsbD i

/-- `A(x,y,z) = ACT[off(x,y,z)]`, meant for coordinates inside the cube (R10). -/
def State.cube (s : State) (x y z : Nat) : Bool := s.act (off s.w x y z)

/-- `DIN[i]` (R11, 10_state.md R27). -/
def State.dinBit (s : State) (i : Nat) : Bool := s.din.getLsbD i

/-- Replace the active buffer. -/
def State.setAct (s : State) (v : BitVec (stateBits s.l)) : State :=
  { s with buf0 := bif s.sel then s.buf0 else v, buf1 := bif s.sel then v else s.buf1 }

/-- Replace the scratch buffer. -/
def State.setScr (s : State) (v : BitVec (stateBits s.l)) : State :=
  { s with buf0 := bif s.sel then v else s.buf0, buf1 := bif s.sel then s.buf1 else v }

/-- The swap controller's only operation, `SEL <- 1 − SEL` (10_state.md R26). -/
def State.toggleSel (s : State) : State := { s with sel := !s.sel }

/-- `PHASE(f)`: the scratch buffer becomes the cube of `f`, then the buffers exchange roles (00_scope.md R12). -/
def State.phase (s : State) (f : Nat → Nat → Nat → Bool) : State :=
  (s.setScr (cubeBits s.l f)).toggleSel

/-- `MemRead(i, n)`: bits ACT[i] … ACT[i+n−1] (R11). -/
def State.memRead (s : State) (i n : Nat) : BitVec n := bitsOf n fun k => s.act (i + k)

/-- `MemWrite(i, n, v)`: bit k of `v` into ACT[i+k] for k < n (R11). -/
def State.memWrite (s : State) (i n : Nat) (v : BitVec n) : State :=
  s.setAct (bitsOf (stateBits s.l) fun j => if i ≤ j ∧ j < i + n then v.getLsbD (j - i) else s.act j)

/-- End a command: STATUS by the rule of 10_state.md R24, and the response with that STATUS (00_scope.md R13). -/
def State.finish (s : State) (code : BitVec 4) (data : Data) : State :=
  { s with status := updateStatus s.status code, resp := some ⟨updateStatus s.status code, data⟩ }

/-- `respond(data)`: end the command successfully (R11). -/
def State.respond (s : State) (data : Data) : State := s.finish successCode data

/-- `raise E`: the one way an error is taken (R11, 60_exceptions.md R170, R176). Only STATUS changes, and the response
carries no data. Every check of the model comes before its first write (R176), so nothing is to be undone. -/
def State.raise (s : State) (e : ErrorKind) : State := s.finish e.code .none

/-- RESET (70_reset_and_hazards.md R190): buffers, SEL and STATUS zero; no response is sent for it (R191). -/
def State.hostReset (s : State) : State :=
  { s with buf0 := 0, buf1 := 0, sel := false, status := 0, resp := none }

/-- Drop the host action being served from the list of coming ones. -/
def State.setInbox (s : State) (rest : List (HostAction (stateBits s.l))) : State := { s with inbox := rest }

/-- Take a command: it leaves the list of coming actions and its value stands on DIN while it runs (R27). -/
def State.accept (s : State) (rest : List (HostAction (stateBits s.l))) (v : BitVec (stateBits s.l)) : State :=
  { s with inbox := rest, din := v }

/-- The host issues a command next, before the actions already pending, with an all-zero DIN. -/
def State.issueNext (s : State) (word : CmdWord) : State :=
  { s with inbox := .command word 0 :: s.inbox }

end Sys2Proof.Machine
end

