-- ==== Sys2Proof/Machine/Construction.lean ====
section
/-! DEFINITION. LOAD (40_construction.md). -/

namespace Sys2Proof.Machine

/-- The writes of LOAD (R90): BUF[0] from DIN, BUF[1] zero, SEL 0. -/
def State.loadDin (s : State) : State := { s with buf0 := s.din, buf1 := 0, sel := false }

/-- LOAD (R90). -/
def execLoad (s : State) : Host.Outcome State Fault Refusal := .next (s.loadDin.respond .none)

end Sys2Proof.Machine
end

