-- ==== Sys2Proof/Machine/CubeAccess.lean ====
section
/-! DEFINITION. RDBIT and WRBIT (45_cube_access.md). -/

namespace Sys2Proof.Machine

/-- RDBIT X, Y, Z (R161): the check of R160, then A(X,Y,Z). -/
def execRdbit (x y z : Nat) (s : State) : Host.Outcome State Fault Refusal :=
  if inCube s.w x y z then .next (s.respond (.bit (s.cube x y z))) else .next (s.raise .outOfRange)

/-- WRBIT X, Y, Z, V (R162): the check of R160, then `ACT[off(X,Y,Z)] <- V`, in place. -/
def execWrbit (x y z : Nat) (v : Bool) (s : State) : Host.Outcome State Fault Refusal :=
  if inCube s.w x y z then .next ((s.memWrite (off s.w x y z) 1 (BitVec.ofBool v)).respond .none)
  else .next (s.raise .outOfRange)

end Sys2Proof.Machine
end

