-- ==== Sys2Proof/Machine/Extraction.lean ====
section
/-! DEFINITION. GETSTATE and COPYU64 (44_extraction.md). -/

namespace Sys2Proof.Machine

/-- GETSTATE (R150): DOUT[i] = ACT[i] for every i < B. -/
def execGetstate (s : State) : Host.Outcome State Fault Refusal :=
  .next (s.respond (.state s.b (s.memRead 0 s.b)))

/-- The first 64 active bits packed MSB first: ACT[i] has weight 2^(63−i) (R152). -/
def State.firstWord (s : State) : Word64 := bitsOf 64 fun j => s.act (63 - j)

/-- COPYU64 (R152): OutOfRange when B < 64. -/
def execCopyu64 (s : State) : Host.Outcome State Fault Refusal :=
  if hasWord s.l then .next (s.respond (.word s.firstWord)) else .next (s.raise .outOfRange)

end Sys2Proof.Machine
end

