-- ==== Sys2Proof/Machine/RoundConstant.lean ====
section
/-! DEFINITION. The round-constant generator and RCBIT (41_round_phases.md R110 to R112). -/

namespace Sys2Proof.Machine

open Sys2Proof.Config

/-- One step of the register (R110): shift toward bit 7, and feed the bit shifted out back through the taps. -/
def lfsrStep (r : BitVec 8) : BitVec 8 :=
  bif r.getLsbD 7 then (r <<< 1) ^^^ lfsrTaps else r <<< 1

/-- The register after `k` steps from its seed (R110). -/
def lfsrAfter : Nat → BitVec 8
  | 0 => lfsrSeed
  | k + 1 => lfsrStep (lfsrAfter k)

/-- `rc(t)`: the low bit of the register after `t mod 255` steps (R110). -/
def rc (t : Nat) : Bool := (lfsrAfter (t % 255)).getLsbD 0

/-- RCBIT T: respond with rc(T) (R112). -/
def execRcbit (t : Nat) (s : State) : Host.Outcome State Fault Refusal := .next (s.respond (.bit (rc t)))

end Sys2Proof.Machine
end

