-- ==== Sys2Proof/Machine/Phases.lean ====
section
/-! DEFINITION. The five round phases (41_round_phases.md R100 to R109). In every bit function `a` is A, the active
cube as it stood before the phase. -/

namespace Sys2Proof.Machine

open Sys2Proof.Config

/-- C(x,z), the column parity (R100). -/
def columnParity (a : Nat → Nat → Nat → Bool) (x z : Nat) : Bool :=
  a x 0 z ^^ a x 1 z ^^ a x 2 z ^^ a x 3 z ^^ a x 4 z

/-- D(x,z) (R100). -/
def thetaD (w : Nat) (a : Nat → Nat → Nat → Bool) (x z : Nat) : Bool :=
  columnParity a (subMod x 1 5) z ^^ columnParity a ((x + 1) % 5) (subMod z 1 w)

/-- f of THETA (R100). -/
def thetaBit (w : Nat) (a : Nat → Nat → Nat → Bool) (x y z : Nat) : Bool := a x y z ^^ thetaD w a x z

/-- The orbit of ρ: `(x,y) → (y, (2x+3y) mod 5)` (R101). -/
def orbitNext (p : Nat × Nat) : Nat × Nat := (p.2, (2 * p.1 + 3 * p.2) % 5)

/-- `orbit(t)`, from (1,0) (R101). -/
def orbit : Nat → Nat × Nat
  | 0 => (1, 0)
  | t + 1 => orbitNext (orbit t)

/-- `T(t) = (t+1)(t+2)/2` (R102). -/
def triangular (t : Nat) : Nat := (t + 1) * (t + 2) / 2

/-- Walk `n` lanes of the orbit from index `t` at lane `p`; the offset of `lane` if the walk meets it, else 0. -/
def rhoWalk (w : Nat) (lane : Nat × Nat) : Nat → Nat → Nat × Nat → Nat
  | 0, _, _ => 0
  | n + 1, t, p => if p = lane then triangular t % w else rhoWalk w lane n (t + 1) (orbitNext p)

/-- `rhooff(x,y)` when the first `shifted` lanes of the orbit are rotated (R103). -/
def rhoOffsetOf (shifted w x y : Nat) : Nat := rhoWalk w (x, y) shifted 0 (orbit 0)

/-- `rhooff(x,y)` (R103): 0 at (0,0) and at orbit(23) = (1,1). -/
def rhoOffset (w x y : Nat) : Nat := rhoOffsetOf rhoShifted w x y

/-- f of RHO: bit z moves to z + rhooff (R104; the direction is decision D19, log 10). -/
def rhoBit (w : Nat) (a : Nat → Nat → Nat → Bool) (x y z : Nat) : Bool := a x y (subMod z (rhoOffset w x y) w)

/-- f of PI (R106). -/
def piBit (a : Nat → Nat → Nat → Bool) (x y z : Nat) : Bool := a ((x + 3 * y) % 5) x z

/-- f of CHI (R107). -/
def chiBit (a : Nat → Nat → Nat → Bool) (x y z : Nat) : Bool :=
  a x y z ^^ ((a ((x + 1) % 5) y z ^^ true) && a ((x + 2) % 5) y z)

/-- `flip(z)` of IOTA when `n` positions are candidates (R108). -/
def iotaFlipOf (n ir z : Nat) : Bool := (List.range n).any fun j => z == 2 ^ j - 1 && rc (j + 7 * ir)

/-- `flip(z)` (R108). -/
def iotaFlip (l : Build) (ir z : Nat) : Bool := iotaFlipOf (iotaBits l) ir z

/-- f of IOTA: only lane (0,0) can change (R108). -/
def iotaBit (l : Build) (ir : Nat) (a : Nat → Nat → Nat → Bool) (x y z : Nat) : Bool :=
  a x y z ^^ (x == 0 && y == 0 && iotaFlip l ir z)

/-- The θ phase, as a command and inside a round (R100, 42_round_sequencer.md R130). -/
def State.thetaPhase (s : State) : State := s.phase (thetaBit s.w s.cube)

/-- The ρ phase (R104). -/
def State.rhoPhase (s : State) : State := s.phase (rhoBit s.w s.cube)

/-- The π phase (R106). -/
def State.piPhase (s : State) : State := s.phase (piBit s.cube)

/-- The χ phase (R107). -/
def State.chiPhase (s : State) : State := s.phase (chiBit s.cube)

/-- The ι phase with round index `ir` (R108). -/
def State.iotaPhase (ir : Nat) (s : State) : State := s.phase (iotaBit s.l ir s.cube)

/-- THETA (R100). -/
def execTheta (s : State) : Host.Outcome State Fault Refusal := .next (s.thetaPhase.respond .none)

/-- RHO (R104). -/
def execRho (s : State) : Host.Outcome State Fault Refusal := .next (s.rhoPhase.respond .none)

/-- PI (R106). -/
def execPi (s : State) : Host.Outcome State Fault Refusal := .next (s.piPhase.respond .none)

/-- CHI (R107). -/
def execChi (s : State) : Host.Outcome State Fault Refusal := .next (s.chiPhase.respond .none)

/-- IOTA IR (R108): every IR is legal. -/
def execIota (ir : Nat) (s : State) : Host.Outcome State Fault Refusal := .next ((s.iotaPhase ir).respond .none)

end Sys2Proof.Machine
end

