-- ==== Sys2Proof/Machine/Sequencer.lean ====
section
/-! DEFINITION. The round sequencer and KECCAK (42_round_sequencer.md). -/

namespace Sys2Proof.Machine

/-- One round: θ, ρ, π, χ, ι in that order (R130). No response is sent and STATUS is not written. -/
def State.round (ir : Nat) (s : State) : State :=
  s.thetaPhase.rhoPhase.piPhase.chiPhase.iotaPhase ir

/-- `n` rounds with indices ir, ir+1, … (R131). -/
def State.runRounds : State → (ir n : Nat) → State
  | s, _, 0 => s
  | s, ir, n + 1 => State.runRounds (s.round ir) (ir + 1) n

/-- KECCAK NR (R131): the check comes before any round; then rounds R−NR to R−1. -/
def execKeccak (nr : Nat) (s : State) : Host.Outcome State Fault Refusal :=
  if roundsLegal s.l nr then .next ((s.runRounds (s.rounds - nr) nr).respond .none)
  else .next (s.raise .outOfRange)

end Sys2Proof.Machine
end

