-- ==== Sys2Proof/Machine/Sponge.lean ====
section
/-! DEFINITION. ABSORB (43_sponge.md R140). -/

namespace Sys2Proof.Machine

/-- `ACT[i] <- ACT[i] XOR DIN[i]` for every i, in place (R140). -/
def State.xorDin (s : State) : State := s.setAct (s.actBuf ^^^ s.din)

/-- ABSORB (R140): the XOR, then rounds 0 to R−1. -/
def execAbsorb (s : State) : Host.Outcome State Fault Refusal :=
  .next ((s.xorDin.runRounds 0 s.rounds).respond .none)

end Sys2Proof.Machine
end

