-- ==== Sys2Proof/Machine/Dispatch.lean ====
section
/-! DEFINITION. One arm per command (30_encoding.md R73). -/

namespace Sys2Proof.Machine

def exec (i : Instr) (s : State) : Host.Outcome State Fault Refusal :=
  match i with
  | .load => Sys2Proof.Machine.execLoad s
  | .theta => Sys2Proof.Machine.execTheta s
  | .rho => Sys2Proof.Machine.execRho s
  | .pi => Sys2Proof.Machine.execPi s
  | .chi => Sys2Proof.Machine.execChi s
  | .iota ir => Sys2Proof.Machine.execIota ir s
  | .keccak nr => Sys2Proof.Machine.execKeccak nr s
  | .absorb => Sys2Proof.Machine.execAbsorb s
  | .getstate => Sys2Proof.Machine.execGetstate s
  | .copyu64 => Sys2Proof.Machine.execCopyu64 s
  | .rdbit x y z => Sys2Proof.Machine.execRdbit x y z s
  | .wrbit x y z v => Sys2Proof.Machine.execWrbit x y z v s
  | .rcbit t => Sys2Proof.Machine.execRcbit t s

end Sys2Proof.Machine
end

