-- ==== Sys2Proof/Machine/Step.lean ====
section
/-! DEFINITION. One step: the block serves the host's next action (00_scope.md R18). -/

namespace Sys2Proof.Machine

/-- With no action pending the state holds unchanged (70_reset_and_hazards.md R195; log 2). A reset sets the reset
values (R190). A command is decoded before anything else (60_exceptions.md R175): a word that selects no command
raises IllegalCommand (30_encoding.md R74, R75), any other runs. -/
def step (s : State) : Host.Outcome State Fault Refusal :=
  match s.inbox with
  | [] => .next s
  | .reset :: rest => .next (s.setInbox rest).hostReset
  | .command word v :: rest =>
    match decode word with
    | .ok i => exec i (s.accept rest v)
    | .error _ => .next ((s.accept rest v).raise .illegalCommand)

/-- The host issues the command whose word is `w` (its bits above `nbits` zero) as its next action, with an
all-zero DIN (log 7). -/
def State.withFetchWord (s : State) (nbits w : Nat) : State := s.issueNext (BitVec.ofNat 32 (w % 2 ^ nbits))

end Sys2Proof.Machine
end

