-- ==== Sys2Proof/Machine/Container.lean ====
section
/-! DEFINITION. The host's BitContainer, the data format of the ports (20_memory.md R47 to R56). It is host-side: the
block performs none of this. -/

namespace Sys2Proof.Machine

open Sys2Proof.Config

/-- A bit store: `words` and a bit count (R47). -/
structure Container where
  words : List Word64
  length : Nat
deriving DecidableEq, Repr

/-- Why a container operation gives no container. -/
inductive HostError where
  /-- an error kind the spec names (60_exceptions.md R174) -/
  | raised (e : ErrorKind)
  /-- an element width the spec reserves (R49, 93_implementation_defined.md I19; log 16) -/
  | reservedWidth
deriving DecidableEq, Repr

/-- Bit `i`: word ⌊i/64⌋, bit position 63 − (i mod 64) (R44, R47). -/
def Container.bit (c : Container) (i : Nat) : Bool := (c.words.getD (i / 64) 0).getLsbD (63 - i % 64)

/-- Bit `i` of the sequence the container holds: nothing past `length` belongs to it (R47). -/
def Container.bitOrZero (c : Container) (i : Nat) : Bool := decide (i < c.length) && c.bit i

/-- R47's invariant, and zero padding, which every container the host builds has (R47, log 16). -/
def Container.wf (c : Container) : Bool :=
  decide (c.length ≤ 64 * c.words.length) &&
    (List.range (64 * c.words.length)).all fun i => decide (i < c.length) || !c.bit i

/-- `n` bits packed MSB first into ⌈n/64⌉ words, the last one padded with zeros (00_scope.md R15, R47). -/
def packWords (n : Nat) (f : Nat → Bool) : List Word64 :=
  (List.range ((n + 63) / 64)).map fun k =>
    bitsOf 64 fun j => decide (64 * k + (63 - j) < n) && f (64 * k + (63 - j))

/-- The container of `n` bits whose bit `i` is `f i`. -/
def Container.ofBits (n : Nat) (f : Nat → Bool) : Container := ⟨packWords n f, n⟩

/-- `from_words` (R48). -/
def Container.fromWords (ws : List Word64) : Container := ⟨ws, 64 * ws.length⟩

/-- Elements of `t` bits, each MSB first, concatenated in order (R49). -/
def Container.ofElements (t : Nat) (xs : List (BitVec t)) : Container :=
  .ofBits (t * xs.length) fun i => (xs.getD (i / t) 0).getMsbD (i % t)

/-- `from_integer_slice<T>` (R49): ConversionOverflow for an element of 2^64 or more; the supported widths are 8, 16,
32 and 64. -/
def Container.fromIntegerSlice (t : Nat) (xs : List (BitVec t)) : Except HostError Container :=
  if xs.any fun x => decide (2 ^ 64 ≤ x.toNat) then .error (.raised .conversionOverflow)
  else if t ∈ [8, 16, 32, 64] then .ok (.ofElements t xs)
  else .error .reservedWidth

/-- `from_text` over the bytes of a text (R50). -/
def Container.fromText (bytes : List Byte) : Container := .ofElements 8 bytes

/-- `zero(length)` (R51). -/
def Container.zero (n : Nat) : Container := ⟨List.replicate ((n + 63) / 64) 0, n⟩

/-- `get(i)` (R52). -/
def Container.get (c : Container) (i : Nat) : Except HostError Bool :=
  if i < c.length then .ok (c.bit i) else .error (.raised .outOfRange)

/-- A word with the bit at position `p` replaced. -/
def setWordBit (w : Word64) (p : Nat) (v : Bool) : Word64 := bitsOf 64 fun j => if j = p then v else w.getLsbD j

/-- `set(i,v)`: only the least-significant bit of `v` counts (R52). -/
def Container.set (c : Container) (i v : Nat) : Except HostError Container :=
  if i < c.length then
    .ok ⟨c.words.modify (i / 64) fun w => setWordBit w (63 - i % 64) (v.testBit 0), c.length⟩
  else .error (.raised .outOfRange)

/-- `append(values)`: the words directly after the current length, which must be a multiple of 64 (R53). -/
def Container.append (c : Container) (ws : List Word64) : Except HostError Container :=
  if c.length % 64 = 0 then .ok ⟨c.words.take (c.length / 64) ++ ws, c.length + 64 * ws.length⟩
  else .error (.raised .alignmentViolation)

/-- `to_words()` (R54). -/
def Container.toWords (c : Container) : List Word64 := c.words

/-- The DIN value of a message: its first min(|M|, B) bits, the rest zero (R55). -/
def dinOf (l : Build) (m : Container) : BitVec (stateBits l) := bitsOf (stateBits l) m.bitOrZero

/-- The container of a GETSTATE response (R56). -/
def snapshot (b : Nat) (v : BitVec b) : Container := .ofBits b v.getLsbD

end Sys2Proof.Machine
end

