-- ==== Sys2Proof/Machine/HostMacros.lean ====
section
/-! DEFINITION. Host procedures over the block: the pseudo-instructions (30_encoding.md R79), construction
(40_construction.md R91, R92), the sponge (43_sponge.md R142) and the sampler (44_extraction.md R154). Each is the list of
actions the host issues. -/

namespace Sys2Proof.Machine

open Sys2Proof.Config

/-- The host issues command `i`, which has a word, with an all-zero DIN. -/
def issue (l : Build) (i : Instr) : HostAction (stateBits l) := .command (encode i) 0

/-- The host issues the commands of a list, or none of them where an operand does not fit its field (R71, R78). -/
def issueAll (l : Build) (is : List Instr) : Option (List (HostAction (stateBits l))) :=
  if is.all Instr.wellFormed then some (is.map (issue l)) else none

/-- The commands of one round (R79). -/
def roundInstrs (ir : Nat) : List Instr := [.theta, .rho, .pi, .chi, .iota ir]

/-- The commands of the rounds ir, ir+1, …, `n` of them. -/
def roundsInstrs (ir n : Nat) : List Instr := (List.range' ir n).flatMap roundInstrs

/-- Construction with an explicit lane depth (R91): LOAD, or nothing if no instance of that depth is at hand. -/
def constructExplicit (l : Build) (w : Nat) (m : Container) : Option (HostAction (stateBits l)) :=
  if w = laneDepth l then some (.command (encode .load) (dinOf l m)) else none

/-- Construction with w = ⌊|M|/25⌋ (R92): refused unless it is the W of the instance at hand. -/
def constructDerived (l : Build) (m : Container) : Option (HostAction (stateBits l)) :=
  constructExplicit l (m.length / 25) m

/-- The number of padding bits of a message of `n` bits: 0 for a multiple of B (R142). -/
def spongePad (b n : Nat) : Nat := (b - n % b) % b

/-- The host's message after SPONGE: zero bits to the next multiple of B (R142; the argument is mutated). -/
def spongeMessage (l : Build) (m : Container) : Container :=
  .ofBits (m.length + spongePad (stateBits l) m.length) m.bitOrZero

/-- Block `k` of a message: DIN[i] = M.get(k·B + i) (R142). -/
def spongeBlock (l : Build) (m : Container) (k : Nat) : BitVec (stateBits l) :=
  bitsOf (stateBits l) fun i => m.bitOrZero (k * stateBits l + i)

/-- SPONGE M (R142): one ABSORB per B-bit block of the padded message, in block order. -/
def spongeActions (l : Build) (m : Container) : List (HostAction (stateBits l)) :=
  (List.range ((spongeMessage l m).length / stateBits l)).map fun k =>
    .command (encode .absorb) (spongeBlock l (spongeMessage l m) k)

/-- SAMPLE: COPYU64, then KECCAK 18 (R79, R154). -/
def sampleActions (l : Build) : List (HostAction (stateBits l)) := [issue l .copyu64, issue l (.keccak 18)]

/-- `value mod range`, which the host computes from the response of COPYU64 (R79, R154); none where the response carries no
word. The spec states no result for range = 0, so there it is the free `Config.zeroRangeSample` (DESIGN CHOICE, log 23). -/
def sampleOutput (range : Nat) (r : Response) : Option Nat :=
  match r.data with
  | .word v => if range = 0 then zeroRangeSample v.toNat else some (v.toNat % range)
  | _ => none

/-- SAMPLER(seed, ·, count): LOAD of the seed word, then `count` times SAMPLE (R154, which has W = 8). -/
def samplerActions (l : Build) (seed : Word64) (count : Nat) : List (HostAction (stateBits l)) :=
  .command (encode .load) (dinOf l (.fromWords [seed])) :: (List.replicate count (sampleActions l)).flatten

/-- The pseudo-instructions (R79). -/
inductive Pseudo where
  | round (ir : Nat)
  | permute
  | sponge (m : Container)
  | sample (range : Nat)
deriving DecidableEq, Repr

/-- The expansion of a pseudo-instruction (R79); `range` is the host's own. `ROUND ir` with an `ir` that does not fit the IR
field is refused, as `IOTA ir` is (R71, R78). -/
def Pseudo.expand (l : Build) : Pseudo → Option (List (HostAction (stateBits l)))
  | .round ir => issueAll l (roundInstrs ir)
  | .permute => issueAll l [.keccak (fullRounds l)]
  | .sponge m => some (spongeActions l m)
  | .sample _ => some (sampleActions l)

end Sys2Proof.Machine
end

