-- ==== Sys2Proof/Machine/Assembler.lean ====
section
/-! DEFINITION. The assembler syntax, one command per line (30_encoding.md R78), over lists of characters. Spacing and
the separator of DIN words are the model's reading: log 17. -/

namespace Sys2Proof.Machine

open Sys2Proof.Config

/-- Drop blanks at both ends. -/
def trimBlanks (cs : List Char) : List Char :=
  ((cs.dropWhile (· == ' ')).reverse.dropWhile (· == ' ')).reverse

/-- The parts of a line between occurrences of `sep`. -/
def splitAt (sep : Char) : List Char → List (List Char)
  | [] => [[]]
  | c :: cs =>
    if c == sep then [] :: splitAt sep cs
    else match splitAt sep cs with
      | [] => [[c]]
      | p :: ps => (c :: p) :: ps

/-- The value of a digit, upper or lower case. -/
def digitValue (c : Char) : Option Nat :=
  if '0' ≤ c ∧ c ≤ '9' then some (c.toNat - '0'.toNat)
  else if 'a' ≤ c ∧ c ≤ 'f' then some (c.toNat - 'a'.toNat + 10)
  else if 'A' ≤ c ∧ c ≤ 'F' then some (c.toNat - 'A'.toNat + 10)
  else none

/-- The number a row of digits spells in `base`, after the value `acc` read so far. -/
def digitsValue (base : Nat) : Nat → List Char → Option Nat
  | acc, [] => some acc
  | acc, c :: cs =>
    match digitValue c with
    | some d => if d < base then digitsValue base (acc * base + d) cs else none
    | none => none

/-- An operand: decimal, or hexadecimal after 0x (R78). The digits may be of either case and begin with zeros; no digits is
no operand (DESIGN CHOICE, log 17). -/
def parseNumber : List Char → Option Nat
  | [] => none
  | ['0', 'x'] => none
  | '0' :: 'x' :: ds => digitsValue 16 0 ds
  | ds => digitsValue 10 0 ds

/-- The operands of a line, separated by commas (R78). -/
def parseNumbers (cs : List Char) : Option (List Nat) :=
  if cs = [] then some [] else ((splitAt ',' cs).map trimBlanks).mapM parseNumber

/-- The command of a mnemonic and its operands (R78). -/
def instrOf (mnemonic : List Char) (ops : List Nat) : Option Instr :=
  match mnemonic, ops with
  | ['L', 'O', 'A', 'D'], [] => some .load
  | ['T', 'H', 'E', 'T', 'A'], [] => some .theta
  | ['R', 'H', 'O'], [] => some .rho
  | ['P', 'I'], [] => some .pi
  | ['C', 'H', 'I'], [] => some .chi
  | ['I', 'O', 'T', 'A'], [ir] => some (.iota ir)
  | ['K', 'E', 'C', 'C', 'A', 'K'], [nr] => some (.keccak nr)
  | ['A', 'B', 'S', 'O', 'R', 'B'], [] => some .absorb
  | ['G', 'E', 'T', 'S', 'T', 'A', 'T', 'E'], [] => some .getstate
  | ['C', 'O', 'P', 'Y', 'U', '6', '4'], [] => some .copyu64
  | ['R', 'D', 'B', 'I', 'T'], [x, y, z] => some (.rdbit x y z)
  | ['W', 'R', 'B', 'I', 'T'], [x, y, z, 0] => some (.wrbit x y z false)
  | ['W', 'R', 'B', 'I', 'T'], [x, y, z, 1] => some (.wrbit x y z true)
  | ['R', 'C', 'B', 'I', 'T'], [t] => some (.rcbit t)
  | _, _ => none

/-- The DIN value written `din=` and a list of 64-bit words, bits at or past B ignored (R78); a word that does not
fit 64 bits is refused, and an empty list is read as no words, an all-zero DIN (both DESIGN CHOICE, log 17). -/
def parseDin (l : Build) (cs : List Char) : Option (BitVec (stateBits l)) :=
  match parseNumbers cs with
  | some ws => if ws.all fun v => decide (v < 2 ^ 64) then some (dinOf l (.fromWords (ws.map (BitVec.ofNat 64)))) else none
  | none => none

/-- The host action of a line (R78). An operand that does not fit its field is refused; one that fits and is out of
range is accepted, and the block reports it when the command executes (R72). -/
def assemble (l : Build) (line : List Char) : Option (HostAction (stateBits l)) :=
  let text := trimBlanks line
  let mnemonic := text.takeWhile (· != ' ')
  match mnemonic, trimBlanks (text.dropWhile (· != ' ')) with
  | ['L', 'O', 'A', 'D'], 'd' :: 'i' :: 'n' :: '=' :: ws => (parseDin l (trimBlanks ws)).map (.command (encode .load))
  | ['A', 'B', 'S', 'O', 'R', 'B'], 'd' :: 'i' :: 'n' :: '=' :: ws =>
    (parseDin l (trimBlanks ws)).map (.command (encode .absorb))
  | _, ops =>
    match (parseNumbers ops).bind (instrOf mnemonic) with
    | some i => if i.wellFormed then some (issue l i) else none
    | none => none

end Sys2Proof.Machine
end

