-- ==== Sys2Proof/Machine/Run.lean ====
section
/-! DEFINITION. Several steps in a row, and the responses the host sees (20_memory.md R61). -/

namespace Sys2Proof.Machine

/-- The state after one step; a step that stopped would leave it as it is. -/
def State.advance (s : State) : State :=
  match step s with
  | .next t => t
  | .fault _ => s
  | .refused _ => s

/-- The state after `n` steps. -/
def State.run : Nat → State → State
  | 0, s => s
  | n + 1, s => State.run n s.advance

/-- What the host has last received, after each of `n` steps. -/
def State.responses : Nat → State → List (Option Response)
  | 0, _ => []
  | n + 1, s => s.advance.resp :: State.responses n s.advance

/-- The commands of a list one after the other, each in the state the one before it left (R61). -/
def execAll : List Instr → State → Host.Outcome State Fault Refusal
  | [], s => .next s
  | i :: is, s =>
    match exec i s with
    | .next t => execAll is t
    | .fault r => .fault r
    | .refused r => .refused r

end Sys2Proof.Machine
end

