-- ==== Sys2Proof/Machine/Platform.lean ====
section
/-! DEFINITION. A platform with several block instances: the product of single-instance machines with a free
interleaving of their commands (60_exceptions.md R185, R186). -/

namespace Sys2Proof.Machine

open Sys2Proof.Config

/-- The instances of a platform, each with its own L (R185). They share nothing. -/
abbrev Platform := List State

/-- The platform after reset. -/
def Platform.resetOf (builds : List Build) : Platform := builds.map State.resetOf

/-- The k-th instance serves its host's next action; no other instance moves (R186). -/
def Platform.stepAt (p : Platform) (k : Nat) : Platform := p.modify k State.advance

/-- An interleaving: which instance moves, step by step. -/
def Platform.run : Platform → List Nat → Platform
  | p, [] => p
  | p, k :: ks => Platform.run (p.stepAt k) ks

/-- The instance mapped at a platform address (KPE_BASE, 20_memory.md R59; 60_exceptions.md R185). The spec does not say what
an address that two instances share selects; this answers the lowest-numbered one (DESIGN CHOICE, log 24). -/
def Platform.mappedAt (p : Platform) (address : Nat) : Option Nat :=
  (List.range p.length).find? fun k => kpeBase k == address

end Sys2Proof.Machine
end

