-- ==== Sys2Proof/Safety.lean ====
section
/-! DEFINITION. What a claim takes for a sound state, a clean run, two states no host can tell apart, and the ways
one state may differ from another. -/

namespace Sys2Proof.Machine

/-- The codes the block writes to STATUS.CODE (60_exceptions.md R172): success, OutOfRange, IllegalCommand. -/
def blockCodes : List (BitVec 4) := [successCode, ErrorKind.outOfRange.code, ErrorKind.illegalCommand.code]

/-- The data of a response agrees with its code: a failed command returns none (00_scope.md R13, 60_exceptions.md R176). -/
def Response.consistent (r : Response) : Bool := statusCode r.status == successCode || r.data == .none

/-- The invariant of the machine: STATUS holds only what 10_state.md R24 and 60_exceptions.md R172 allow (reserved bits zero,
CODE one of the block's codes, STICKY set whenever CODE is an error), the last response carries the STATUS the block
now has and no data after a failure, and with no response sent STATUS is as reset leaves it. -/
def State.Inv (s : State) : Prop :=
  statusReserved s.status = 0#3 ∧ statusCode s.status ∈ blockCodes ∧
  (statusCode s.status ≠ successCode → statusSticky s.status = true) ∧
  match s.resp with
  | some r => r.status = s.status ∧ r.consistent = true
  | none => s.status = 0#8

/-- A run of `n` steps is without error: STICKY is 0 at its start and at its end (60_exceptions.md R187). -/
def State.runsClean (n : Nat) (s : State) : Bool := !statusSticky s.status && !statusSticky (s.run n).status

/-- `t` is `s` but for the physical place of the active buffer and the contents of the scratch buffer
(10_state.md R31, R32). -/
def State.SameToHost (s t : State) : Prop :=
  ∃ b0 b1 q, t = { s with buf0 := b0, buf1 := b1, sel := q } ∧ (bif q then b1 else b0) = s.actBuf

/-- `t` is `s` but for the buffers, SEL, STATUS and the response: the build, DIN and the coming actions are kept. -/
def State.PortsKept (s t : State) : Prop :=
  ∃ b0 b1 q st r, t = { s with buf0 := b0, buf1 := b1, sel := q, status := st, resp := r }

/-- `t` is `s` but for STATUS and the response: the buffers and SEL are kept as well. -/
def State.OnlyStatusChanges (s t : State) : Prop := ∃ st r, t = { s with status := st, resp := r }

/-- `t` reports the success of a command issued in `s`, with this data (10_state.md R24, 00_scope.md R13): CODE 0, STICKY
as it was, the reserved bits zero, and the response carrying that STATUS. -/
def State.Succeeded (s t : State) (d : Data) : Prop :=
  statusCode t.status = 0#4 ∧ statusSticky t.status = statusSticky s.status ∧ statusReserved t.status = 0#3 ∧
    t.resp = some ⟨t.status, d⟩

/-- `t` is `s` after a command that failed with this code (60_exceptions.md R172, R176): only STATUS changes, CODE is the
code, STICKY is set, the reserved bits are zero, and the response carries that STATUS and no data. -/
def State.FailedWith (s t : State) (code : BitVec 4) : Prop :=
  s.OnlyStatusChanges t ∧ statusCode t.status = code ∧ statusSticky t.status = true ∧
    statusReserved t.status = 0#3 ∧ t.resp = some ⟨t.status, .none⟩

/-- No reset is among the host's coming actions. -/
def State.noResetPending (s : State) : Bool := s.inbox.all fun a => a != .reset

end Sys2Proof.Machine
end

