-- ==== Sys2Proof/Certificates/Slice0/Obligations.lean ====
section
/-! DEFINITION. The statements for the provers, each a numbered rule of spec/ or derived from its sections. "Log n" is
notes/assumptions/n.md. Where a clause rests on a decision the spec marks as its own, the docstring names it. -/

open Sys2Proof Sys2Proof.Machine Sys2Proof.Config

/-! ### Encoding (30_encoding.md) -/

/-- Every well-formed command is read back from its word with every operand (R71 to R73, R77; decisions D15, D16). -/
def Obligations.DecodeOfEncode : Prop :=
  ∀ i : Instr, i.wellFormed = true → decode (encode i) = .ok i

/-- Every word that decodes is the word of the command it decodes to, and that command is well formed: no word is a
second spelling (R71 to R73, R77; decisions D15, D16). -/
def Obligations.EncodeOfDecode : Prop :=
  ∀ (w : CmdWord) (i : Instr), decode w = .ok i → i.wellFormed = true ∧ encode i = w

/-- A word selects a command exactly when it agrees with a row of the opcode table in the bits of the row's mask, and
then with one row only (R73, R77; decisions D15, D16). -/
def Obligations.WordSelectsCommandByMask : Prop :=
  (∀ w : CmdWord, (∃ i, decode w = .ok i) ↔ ∃ r ∈ opcodeTable, w &&& r.mask = r.pattern) ∧
  ∀ w : CmdWord, ∀ r ∈ opcodeTable, ∀ q ∈ opcodeTable,
    w &&& r.mask = r.pattern → w &&& q.mask = q.pattern → r = q

/-- Words of the spec's table of worked encodings decode to the commands it lists them for (R80; decision D15). -/
def Obligations.WorkedEncodingsDecode : Prop :=
  decode 0x10000000#32 = .ok .load ∧ decode 0x60000011#32 = .ok (.iota 17) ∧
  decode 0x70000013#32 = .ok (.keccak 19) ∧ decode 0xB00FC000#32 = .ok (.rdbit 0 0 63) ∧
  decode 0xB901C000#32 = .ok (.rdbit 4 4 7) ∧ decode 0xBA000000#32 = .ok (.rdbit 5 0 0) ∧
  decode 0xC901C001#32 = .ok (.wrbit 4 4 7 true) ∧ decode 0xC0020001#32 = .ok (.wrbit 0 0 8 true) ∧
  decode 0xD00000FF#32 = .ok (.rcbit 255) ∧ decode 0x20000001#32 = .error .reservedBits ∧
  decode 0xB0000001#32 = .error .reservedBits

/-- Reserved opcodes and set reserved bits raise IllegalCommand, before any operand check, and change only STATUS
(R74, R75, 60_exceptions.md R175, R176; decisions D16, D28): every word with OP 0x0, 0xE or 0xF is refused by the
decoder, and so is every word of RDBIT with bit 0 set, whatever its coordinate. -/
def Obligations.IllegalWordRaisesIllegalCommand : Prop :=
  (∀ w : CmdWord, field w 28 4 = 0x0 ∨ field w 28 4 = 0xE ∨ field w 28 4 = 0xF →
    decode w = .error .reservedOpcode) ∧
  (∀ w : CmdWord, field w 28 4 = 0xB → w.getLsbD 0 = true → decode w = .error .reservedBits) ∧
  ∀ (s : State) (w : CmdWord) (v : BitVec (stateBits s.l)) (rest : List (HostAction (stateBits s.l)))
    (e : DecodeError), s.inbox = .command w v :: rest → decode w = .error e →
    ∃ t, step s = .next t ∧ State.FailedWith { s with inbox := rest, din := v } t 5#4

/-! ### One step -/

/-- A step that serves a word of command `i` is `exec i` with the word taken from the coming actions and its value on
DIN (00_scope.md R13, R18, 10_state.md R27; the list of coming actions is the model's, log 2 and log 3). -/
def Obligations.StepRunsDecodedCommand : Prop :=
  ∀ (s : State) (w : CmdWord) (v : BitVec (stateBits s.l)) (rest : List (HostAction (stateBits s.l))) (i : Instr),
    s.inbox = .command w v :: rest → decode w = .ok i → step s = exec i { s with inbox := rest, din := v }

/-- A word placed by `withFetchWord` is the very next command that runs, with a zero DIN, before every action already
pending (the model's reading of a program's load, log 7). -/
def Obligations.PlacedWordRunsNext : Prop :=
  ∀ (s : State) (nbits w : Nat) (i : Instr), decodeTableWord nbits w = some i →
    step (s.withFetchWord nbits w) = exec i { s with din := 0 }

/-- Every step answers a next state of the same build: no command waits, stops the machine or changes L
(00_scope.md R6, R19, 60_exceptions.md R177, R187). -/
def Obligations.EveryStepAnswersNext : Prop :=
  ∀ s : State, ∃ t, step s = .next t ∧ t.l = s.l

/-- With no host action pending, the state holds unchanged (70_reset_and_hazards.md R195; decision D4; log 2). -/
def Obligations.IdleStepHoldsState : Prop :=
  ∀ s : State, s.inbox = [] → step s = .next s

/-- A reset sets both buffers, SEL and STATUS to zero whatever they held and sends no response (70_reset_and_hazards.md
R190, R191; decision D11). The coming actions stay (log 12). -/
def Obligations.ResetActionZeroesTheBlock : Prop :=
  ∀ (s : State) (rest : List (HostAction (stateBits s.l))), s.inbox = .reset :: rest →
    step s = .next { s with buf0 := 0, buf1 := 0, sel := false, status := 0, inbox := rest, resp := none }

/-- After reset every bit of both buffers is 0, SEL is 0, STATUS is 0x00, in every build (10_state.md R33; decision D11
for SEL and STATUS). That `State.reset` is the build L = 3, with no action pending, is the model's choice (log 1, log 2). -/
def Obligations.ResetValues : Prop :=
  (∀ l : Build, (∀ i, (State.resetOf l).buf0.getLsbD i = false) ∧ (∀ i, (State.resetOf l).buf1.getLsbD i = false) ∧
    (State.resetOf l).sel = false ∧ statusCode (State.resetOf l).status = 0#4 ∧
    statusSticky (State.resetOf l).status = false ∧ statusReserved (State.resetOf l).status = 0#3 ∧
    (State.resetOf l).resp = none) ∧
  State.reset = State.resetOf 3

/-! ### STATUS and errors (10_state.md R24, 60_exceptions.md) -/

/-- After every command CODE is 0, 1 or 5, STICKY is what it was or 1 if CODE is an error, the reserved bits are zero,
and the response carries that STATUS (10_state.md R24, 60_exceptions.md R172; decisions D8, D27). -/
def Obligations.StatusAfterEveryCommand : Prop :=
  ∀ (s t : State) (w : CmdWord) (v : BitVec (stateBits s.l)) (rest : List (HostAction (stateBits s.l))),
    s.inbox = .command w v :: rest → step s = .next t →
    (statusCode t.status = 0#4 ∨ statusCode t.status = 1#4 ∨ statusCode t.status = 5#4) ∧
    statusSticky t.status = (statusSticky s.status || statusCode t.status != 0#4) ∧
    statusReserved t.status = 0#3 ∧ ∃ d, t.resp = some ⟨t.status, d⟩

/-- No command clears STICKY: once set it stays set through every step while no reset is issued (10_state.md R24;
decision D8). -/
def Obligations.StickyStaysUntilReset : Prop :=
  ∀ (n : Nat) (s : State), s.noResetPending = true → statusSticky s.status = true →
    statusSticky (s.run n).status = true

/-- A run that starts with STICKY 0 ends with STICKY 0 exactly when every response of it reports success
(60_exceptions.md R187; decision D8). -/
def Obligations.CleanRunIffEveryResponseSucceeds : Prop :=
  ∀ (n : Nat) (s : State), s.Inv → s.noResetPending = true → statusSticky s.status = false →
    (s.runsClean n = true ↔ ∀ r, some r ∈ s.responses n → statusCode r.status = 0#4)

/-- A command that reports an error changes nothing but STATUS, sets STICKY and returns no data
(60_exceptions.md R176; decision D8). -/
def Obligations.FailedCommandChangesOnlyStatus : Prop :=
  ∀ (i : Instr) (s t : State), exec i s = .next t → statusCode t.status ≠ 0#4 →
    s.FailedWith t (statusCode t.status)

/-- Which decoded commands fail, and with which code: KECCAK with NR > R, COPYU64 with fewer than 64 state bits, RDBIT
and WRBIT outside the cube, each with OutOfRange; every other command succeeds (60_exceptions.md R172, R173). -/
def Obligations.OnlyOutOfRangeOperandsFail : Prop :=
  ∀ (i : Instr) (s t : State), exec i s = .next t →
    (statusCode t.status = 0#4 ∨ statusCode t.status = 1#4) ∧
    (statusCode t.status = 1#4 ↔
      (∃ nr, i = .keccak nr ∧ fullRounds s.l < nr) ∨ (i = .copyu64 ∧ stateBits s.l < 64) ∨
      (∃ x y z, (i = .rdbit x y z ∨ ∃ v, i = .wrbit x y z v) ∧ (5 ≤ x ∨ 5 ≤ y ∨ laneDepth s.l ≤ z)))

/-! ### Construction (40_construction.md) -/

/-- LOAD: BUF[0] takes every bit of DIN, BUF[1] is zero, SEL is 0; CODE is 0 and no data is returned (R90; decision D18
for the scratch buffer and SEL). -/
def Obligations.LoadConstructsFromDin : Prop :=
  ∀ s : State, ∃ t, exec .load s = .next t ∧ s.PortsKept t ∧ s.Succeeded t .none ∧ t.sel = false ∧
    (∀ i < stateBits s.l, t.buf0.getLsbD i = s.din.getLsbD i) ∧ ∀ i, t.buf1.getLsbD i = false

/-- A message the host forms DIN from and loads comes back from GETSTATE: its first min(|M|, B) bits, then zeros
(R93, 20_memory.md R55). -/
def Obligations.LoadedMessageComesBack : Prop :=
  ∀ (s : State) (m : Container), ∃ t u v, exec .load { s with din := dinOf s.l m } = .next t ∧
    exec .getstate t = .next u ∧ u.resp = some ⟨u.status, .state (stateBits s.l) v⟩ ∧
    ∀ i < stateBits s.l, v.getLsbD i = if i < m.length then (m.words.getD (i / 64) 0).getLsbD (63 - i % 64) else false

/-! ### Round phases (41_round_phases.md) -/

/-- PHASE(f): the new active buffer holds f at every coordinate, the new scratch buffer is the active buffer as it stood,
SEL is toggled, and nothing else changes (00_scope.md R12). -/
def Obligations.PhaseWritesScratchAndSwaps : Prop :=
  ∀ (s : State) (f : Nat → Nat → Nat → Bool),
    (∃ b0 b1 q, s.phase f = { s with buf0 := b0, buf1 := b1, sel := q }) ∧ (s.phase f).sel = (!s.sel) ∧
    (∀ i, (s.phase f).scr i = s.act i) ∧
    ∀ x < 5, ∀ y < 5, ∀ z < laneDepth s.l, (s.phase f).act (laneDepth s.l * (5 * y + x) + z) = f x y z

/-- THETA (R100): every bit is XORed with the parity of column (x−1, z) and of column (x+1, z−1), coordinates taken mod 5
and mod W; the scratch buffer is the old cube, SEL is toggled, CODE is 0, no data. -/
def Obligations.ThetaMixesColumnParities : Prop :=
  decode 0x20000000#32 = .ok .theta ∧
  ∀ s : State, ∃ t, exec .theta s = .next t ∧ s.PortsKept t ∧ s.Succeeded t .none ∧ t.sel = (!s.sel) ∧
    (∀ i, t.scr i = s.act i) ∧
    ∀ x < 5, ∀ y < 5, ∀ z < laneDepth s.l, t.cube x y z =
      (s.cube x y z ^^
        (s.cube ((x + 4) % 5) 0 z ^^ s.cube ((x + 4) % 5) 1 z ^^ s.cube ((x + 4) % 5) 2 z ^^
          s.cube ((x + 4) % 5) 3 z ^^ s.cube ((x + 4) % 5) 4 z) ^^
        (s.cube ((x + 1) % 5) 0 ((z + laneDepth s.l - 1) % laneDepth s.l) ^^
          s.cube ((x + 1) % 5) 1 ((z + laneDepth s.l - 1) % laneDepth s.l) ^^
          s.cube ((x + 1) % 5) 2 ((z + laneDepth s.l - 1) % laneDepth s.l) ^^
          s.cube ((x + 1) % 5) 3 ((z + laneDepth s.l - 1) % laneDepth s.l) ^^
          s.cube ((x + 1) % 5) 4 ((z + laneDepth s.l - 1) % laneDepth s.l)))

/-- The orbit of ρ starts at (1,0), steps by (x,y) → (y, (2x+3y) mod 5), and visits every lane other than (0,0) at exactly
one of its indices 0 to 23 (R101). -/
def Obligations.OrbitVisitsEveryOtherLane : Prop :=
  orbit 0 = (1, 0) ∧ (∀ t, orbit (t + 1) = ((orbit t).2, (2 * (orbit t).1 + 3 * (orbit t).2) % 5)) ∧
  (∀ t < 24, orbit t ≠ (0, 0) ∧ ∀ u < 24, orbit t = orbit u → t = u) ∧
  ∀ x < 5, ∀ y < 5, (x, y) ≠ (0, 0) → ∃ t < 24, orbit t = (x, y)

/-- RHO (R103, R104; decisions D14 and D19, log 9 and log 10): on the first 23 lanes of the orbit, bit z moves to
z + (t+1)(t+2)/2 mod W; lanes (0,0) and (1,1) stay; the scratch buffer is the old cube, SEL is toggled, CODE is 0. -/
def Obligations.RhoRotatesLanes : Prop :=
  decode 0x30000000#32 = .ok .rho ∧
  ∀ s : State, ∃ t, exec .rho s = .next t ∧ s.PortsKept t ∧ s.Succeeded t .none ∧ t.sel = (!s.sel) ∧
    (∀ i, t.scr i = s.act i) ∧
    (∀ k < 23, ∀ z < laneDepth s.l,
      t.cube (orbit k).1 (orbit k).2 ((z + (k + 1) * (k + 2) / 2) % laneDepth s.l) =
        s.cube (orbit k).1 (orbit k).2 z) ∧
    ∀ z < laneDepth s.l, t.cube 0 0 z = s.cube 0 0 z ∧ t.cube 1 1 z = s.cube 1 1 z

/-- The ρ offsets of the largest build, lane by lane, and those of every build by reduction mod W (R105; decision D14). -/
def Obligations.RhoOffsetTable : Prop :=
  ((List.range 5).map fun y => (List.range 5).map fun x => rhoOffset 64 x y) =
    [[0, 1, 62, 28, 27], [36, 0, 6, 55, 20], [3, 10, 43, 25, 39], [41, 45, 15, 21, 8], [18, 2, 61, 56, 14]] ∧
  ∀ l : Build, ∀ x < 5, ∀ y < 5, rhoOffset (laneDepth l) x y = rhoOffset 64 x y % laneDepth l

/-- PI (R106): the bit at (x,y,z) comes from ((x+3y) mod 5, x, z), so lane (X,Y) moves to (Y, (2X+3Y) mod 5); the scratch
buffer is the old cube, SEL is toggled, CODE is 0, no data. -/
def Obligations.PiMovesLanes : Prop :=
  decode 0x40000000#32 = .ok .pi ∧
  ∀ s : State, ∃ t, exec .pi s = .next t ∧ s.PortsKept t ∧ s.Succeeded t .none ∧ t.sel = (!s.sel) ∧
    (∀ i, t.scr i = s.act i) ∧
    (∀ x < 5, ∀ y < 5, ∀ z < laneDepth s.l, t.cube x y z = s.cube ((x + 3 * y) % 5) x z) ∧
    ∀ x < 5, ∀ y < 5, ∀ z < laneDepth s.l, t.cube y ((2 * x + 3 * y) % 5) z = s.cube x y z

/-- CHI (R107): every bit is XORed with (NOT its right neighbour) AND the one after it, in its row, from the old row only;
the scratch buffer is the old cube, SEL is toggled, CODE is 0, no data. -/
def Obligations.ChiMixesRows : Prop :=
  decode 0x50000000#32 = .ok .chi ∧
  ∀ s : State, ∃ t, exec .chi s = .next t ∧ s.PortsKept t ∧ s.Succeeded t .none ∧ t.sel = (!s.sel) ∧
    (∀ i, t.scr i = s.act i) ∧
    ∀ x < 5, ∀ y < 5, ∀ z < laneDepth s.l,
      t.cube x y z = (s.cube x y z ^^ (!s.cube ((x + 1) % 5) y z && s.cube ((x + 2) % 5) y z))

/-- IOTA IR (R108; decision D14, log 9), for every IR: only lane (0,0) can change, and its bit z is flipped exactly when
z = 2^j − 1 for a j < L with rc(j + 7·IR) = 1; the scratch buffer is the old cube, SEL is toggled, CODE is 0. -/
def Obligations.IotaInjectsRoundConstant : Prop :=
  ∀ (s : State) (ir : Nat), ∃ t, exec (.iota ir) s = .next t ∧ s.PortsKept t ∧ s.Succeeded t .none ∧
    t.sel = (!s.sel) ∧ (∀ i, t.scr i = s.act i) ∧
    (∀ x < 5, ∀ y < 5, ∀ z < laneDepth s.l, ¬ (x = 0 ∧ y = 0) → t.cube x y z = s.cube x y z) ∧
    (∀ j < s.l.val, t.cube 0 0 (2 ^ j - 1) = (s.cube 0 0 (2 ^ j - 1) ^^ rc (j + 7 * ir))) ∧
    ∀ z < laneDepth s.l, (∀ j < s.l.val, z ≠ 2 ^ j - 1) → t.cube 0 0 z = s.cube 0 0 z

/-- The ι masks of rounds 0 to 23 in the largest build (R109; decisions D14 and D20). -/
def Obligations.IotaMaskTable : Prop :=
  ((List.range 24).map fun ir => bitsNat 64 (iotaFlip 6 ir)) =
    [0x1, 0x8082, 0x808A, 0x80008000, 0x808B, 0x80000001, 0x80008081, 0x8009, 0x8A, 0x88, 0x80008009, 0x8000000A,
     0x8000808B, 0x8B, 0x8089, 0x8003, 0x8002, 0x80, 0x800A, 0x8000000A, 0x80008081, 0x8080, 0x80000001, 0x80008008]

/-- The register returns to its seed after 255 steps, so that rc(t) is the low bit of the register after `t` steps with no
reduction, and a 255-entry table gives the same bits (R110; decision D20, log 10). -/
def Obligations.RegisterHasPeriod255 : Prop :=
  lfsrAfter 0 = 0x01#8 ∧ (∀ k, lfsrAfter (k + 255) = lfsrAfter k) ∧
    ∀ t, rc t = (lfsrAfter t).getLsbD 0 ∧ rc (t % 255) = rc t

/-- The 255 bits of the round-constant sequence, rc(0) first (R111; decision D20, log 10). -/
def Obligations.RoundConstantSequence : Prop :=
  ∀ t < 255, rc t = (0b100000001011000111101000011111111001000010100111110101010111000001100010101100110010111111011110011011101110010101001010001001011010001100111001111000110110000100010111010111101101111100001101001101011011010100000100111011001001001100000011101001000111000#255).getMsbD t

/-- RCBIT T responds with rc(T) and changes only STATUS (R112; decision D21). -/
def Obligations.RcbitRespondsRoundConstant : Prop :=
  ∀ (s : State) (n : Nat), ∃ t, exec (.rcbit n) s = .next t ∧ s.OnlyStatusChanges t ∧ s.Succeeded t (.bit (rc n))

/-! ### Round sequencer (42_round_sequencer.md) -/

/-- KECCAK NR with NR ≤ R completes, and leaves the buffers and SEL that the commands THETA, RHO, PI, CHI, IOTA ir, issued
for ir = R−NR, …, R−1 in that order, leave (R130, R131, R133). It reports success once, with no data. -/
def Obligations.KeccakEqualsItsRounds : Prop :=
  ∀ (s : State) (nr : Nat), nr ≤ fullRounds s.l → ∃ t u, exec (.keccak nr) s = .next t ∧ s.PortsKept t ∧
    s.Succeeded t .none ∧ execAll (roundsInstrs (fullRounds s.l - nr) nr) s = .next u ∧
    u = { t with status := u.status, resp := u.resp }

/-- KECCAK NR with NR > R raises OutOfRange before any round (R131, 60_exceptions.md R176; decision D22). -/
def Obligations.KeccakBeyondScheduleFails : Prop :=
  ∀ (s : State) (nr : Nat), fullRounds s.l < nr →
    ∃ t, exec (.keccak nr) s = .next t ∧ s.FailedWith t 1#4

/-- KECCAK (n+m) has the effect of the rounds R−n−m … R−n−1 and then KECCAK n (R133). -/
def Obligations.KeccakComposes : Prop :=
  ∀ (s : State) (n m : Nat), n + m ≤ fullRounds s.l → ∃ t u v, exec (.keccak (n + m)) s = .next t ∧
    execAll (roundsInstrs (fullRounds s.l - n - m) m) s = .next u ∧ exec (.keccak n) u = .next v ∧
    v.sel = t.sel ∧ ∀ i, v.act i = t.act i ∧ v.scr i = t.scr i

/-- After KECCAK NR with NR ≥ 1, and after ABSORB, the scratch buffer holds the input of the last ι phase: the active cube
with the flips of round R−1 undone (10_state.md R31; decision D14). -/
def Obligations.ScratchHoldsLastIotaInput : Prop :=
  ∀ (s t : State) (i : Instr), (i = .absorb ∨ ∃ nr, i = .keccak nr ∧ 1 ≤ nr ∧ nr ≤ fullRounds s.l) →
    exec i s = .next t → ∀ x < 5, ∀ y < 5, ∀ z < laneDepth s.l,
      t.scr (laneDepth s.l * (5 * y + x) + z) =
        (t.cube x y z ^^ (decide (x = 0) && decide (y = 0) && iotaFlip s.l (fullRounds s.l - 1) z))

/-- The cube after KECCAK is a function of the cube before it: two states of one build with the same cube end with the
same cube, whatever their scratch buffers, SEL and STATUS (R134). -/
def Obligations.KeccakDependsOnCubeOnly : Prop :=
  ∀ (s t s' t' : State) (nr : Nat), s.l = t.l → (∀ i, s.act i = t.act i) →
    exec (.keccak nr) s = .next s' → exec (.keccak nr) t = .next t' → ∀ i, s'.act i = t'.act i

/-- THETA, RHO, PI and CHI leave an all-zero cube zero; so does every KECCAK with L = 0, and KECCAK 1 with L = 3, which
still inverts SEL (R135). -/
def Obligations.ZeroCubeFixedPoints : Prop :=
  ∀ s : State, (∀ i, s.act i = false) →
    (∀ i ∈ [Instr.theta, .rho, .pi, .chi], ∃ t, exec i s = .next t ∧ ∀ j, t.act j = false) ∧
    (s.l = 0 → ∀ nr ≤ 12, ∃ t, exec (.keccak nr) s = .next t ∧ ∀ j, t.act j = false) ∧
    (s.l = 3 → ∃ t, exec (.keccak 1) s = .next t ∧ t.sel = (!s.sel) ∧ ∀ j, t.act j = false)

/-- RHO, PI, CHI and IOTA lose nothing: two states of one build with the same cube afterwards had the same cube before
(R135). -/
def Obligations.BitMovingAndRowPhasesInjective : Prop :=
  ∀ (s t s' t' : State) (i : Instr), (i = .rho ∨ i = .pi ∨ i = .chi ∨ ∃ ir, i = .iota ir) → s.l = t.l →
    exec i s = .next s' → exec i t = .next t' → (∀ j, s'.act j = t'.act j) → ∀ j, s.act j = t.act j

/-- THETA loses nothing, in every build: two states of one build with the same cube afterwards had the same cube before
(R135, which marks this as general knowledge G3). -/
def Obligations.ThetaInjective : Prop :=
  ∀ s t s' t' : State, s.l = t.l → exec .theta s = .next s' → exec .theta t = .next t' →
    (∀ j, s'.act j = t'.act j) → ∀ j, s.act j = t.act j

/-- Every KECCAK NR with NR ≤ R is a bijection of the cube: two states of one build with the same cube afterwards had the
same cube before (R135, resting on general knowledge G3 for θ and χ). -/
def Obligations.KeccakInjective : Prop :=
  ∀ (s t s' t' : State) (nr : Nat), s.l = t.l → exec (.keccak nr) s = .next s' → exec (.keccak nr) t = .next t' →
    (∀ j, s'.act j = t'.act j) → ∀ j, s.act j = t.act j

/-! ### Sponge (43_sponge.md) -/

/-- ABSORB is the XOR of DIN into the active buffer, in place, followed by KECCAK R (R140; decision D23): it ends in the
very state that KECCAK R reaches from `s` with buffers whose active bits are the XOR and whose scratch bits are the
same. It reports success with no data, and SEL ends unchanged. -/
def Obligations.AbsorbIsXorThenPermutation : Prop :=
  ∀ s : State, ∃ (b0 b1 : BitVec (stateBits s.l)) (t : State),
    (∀ i < stateBits s.l, State.act { s with buf0 := b0, buf1 := b1 } i = (s.act i ^^ s.din.getLsbD i)) ∧
    (∀ i < stateBits s.l, State.scr { s with buf0 := b0, buf1 := b1 } i = s.scr i) ∧
    exec .absorb s = .next t ∧ exec (.keccak (fullRounds s.l)) { s with buf0 := b0, buf1 := b1 } = .next t ∧
    s.PortsKept t ∧ s.Succeeded t .none ∧ t.sel = s.sel

/-- From an all-zero cube, ABSORB gives the cube that LOAD of the same DIN and KECCAK R give (R140). -/
def Obligations.AbsorbFromZeroIsLoadThenPermutation : Prop :=
  ∀ s : State, (∀ i, s.act i = false) → ∃ t u, exec .absorb s = .next t ∧
    execAll [.load, .keccak (fullRounds s.l)] s = .next u ∧ ∀ i, t.act i = u.act i

/-- SPONGE M issues one ABSORB for each of the ⌈|M|/B⌉ blocks of the message padded with zeros, in block order, and none
for an empty message (R142; decision D24). -/
def Obligations.SpongeIssuesOneAbsorbPerBlock : Prop :=
  ∀ (l : Build) (m : Container),
    (spongeActions l m).length = (m.length + stateBits l - 1) / stateBits l ∧
    ∀ k < (m.length + stateBits l - 1) / stateBits l, ∃ v : BitVec (stateBits l),
      (spongeActions l m)[k]? = some (.command 0x80000000#32 v) ∧
      ∀ i < stateBits l, v.getLsbD i = (decide (k * stateBits l + i < m.length) && m.bit (k * stateBits l + i))

/-! ### Extraction (44_extraction.md) -/

/-- GETSTATE responds with the B active bits, DOUT[i] = ACT[i], and changes only STATUS; the host's container of the
response has length B, ⌈B/64⌉ words, those bits and zero padding (R150, 20_memory.md R56). -/
def Obligations.GetstateRespondsWholeState : Prop :=
  decode 0x90000000#32 = .ok .getstate ∧
  ∀ s : State, ∃ t v, exec .getstate s = .next t ∧ s.OnlyStatusChanges t ∧
    s.Succeeded t (.state (stateBits s.l) v) ∧ (∀ i < stateBits s.l, v.getLsbD i = s.act i) ∧
    (snapshot (stateBits s.l) v).length = stateBits s.l ∧
    (snapshot (stateBits s.l) v).words.length = (stateBits s.l + 63) / 64 ∧
    (∀ i < 64 * ((stateBits s.l + 63) / 64), stateBits s.l ≤ i →
      ((snapshot (stateBits s.l) v).words.getD (i / 64) 0).getLsbD (63 - i % 64) = false) ∧
    ∀ i < stateBits s.l, (snapshot (stateBits s.l) v).get i = .ok (s.act i)

/-- COPYU64 with at least 64 state bits (L ≥ 2) responds with the first 64, ACT[i] at weight 2^(63−i); with fewer it raises
OutOfRange; either way it changes only STATUS (R152, R153; decision D25). -/
def Obligations.CopyRespondsFirstWord : Prop :=
  ∀ s : State,
    (2 ≤ s.l.val → ∃ t v, exec .copyu64 s = .next t ∧ s.OnlyStatusChanges t ∧ s.Succeeded t (.word v) ∧
      ∀ i < 64, v.getLsbD (63 - i) = s.act i) ∧
    (s.l.val < 2 → ∃ t, exec .copyu64 s = .next t ∧ s.FailedWith t 1#4)

/-- The sampler's first COPYU64 returns the seed itself: the two first actions are LOAD of the seed word and COPYU64
(R154, R155; for every build with at least 64 state bits). -/
def Obligations.SamplerFirstWordIsTheSeed : Prop :=
  ∀ (s : State) (seed : Word64) (n : Nat), 2 ≤ s.l.val → s.inbox = samplerActions s.l seed (n + 1) →
    ∃ st, (s.run 2).resp = some ⟨st, .word seed⟩ ∧ statusCode st = 0#4

/-! ### Cube access (45_cube_access.md, 20_memory.md) -/

/-- The offset map is a bijection from the cube onto [0, B) (20_memory.md R40). -/
def Obligations.OffsetMapIsBijection : Prop :=
  ∀ l : Build,
    (∀ x < 5, ∀ y < 5, ∀ z < laneDepth l, off (laneDepth l) x y z = laneDepth l * (5 * y + x) + z ∧
      off (laneDepth l) x y z < stateBits l) ∧
    (∀ x < 5, ∀ y < 5, ∀ z < laneDepth l, ∀ x' < 5, ∀ y' < 5, ∀ z' < laneDepth l,
      off (laneDepth l) x y z = off (laneDepth l) x' y' z' → x = x' ∧ y = y' ∧ z = z') ∧
    ∀ i < stateBits l, ∃ x < 5, ∃ y < 5, ∃ z < laneDepth l, off (laneDepth l) x y z = i

/-- A coordinate with X ≥ 5, Y ≥ 5 or Z ≥ W makes RDBIT and WRBIT raise OutOfRange and write nothing: it never wraps. One
inside the cube addresses off(X,Y,Z), which the statements of RDBIT and WRBIT say (R160). -/
def Obligations.CoordinateOutsideCubeFails : Prop :=
  ∀ (s : State) (x y z : Nat), 5 ≤ x ∨ 5 ≤ y ∨ laneDepth s.l ≤ z →
    (∃ t, exec (.rdbit x y z) s = .next t ∧ s.FailedWith t 1#4) ∧
    ∀ v, ∃ t, exec (.wrbit x y z v) s = .next t ∧ s.FailedWith t 1#4

/-- RDBIT inside the cube responds with ACT[off(X,Y,Z)] and changes only STATUS (R160, R161; decision D26). -/
def Obligations.RdbitRespondsTheBit : Prop :=
  ∀ (s : State) (x y z : Nat), x < 5 → y < 5 → z < laneDepth s.l →
    ∃ t, exec (.rdbit x y z) s = .next t ∧ s.OnlyStatusChanges t ∧
      s.Succeeded t (.bit (s.act (laneDepth s.l * (5 * y + x) + z)))

/-- WRBIT inside the cube writes V to ACT[off(X,Y,Z)] and to no other bit of either buffer; SEL is unchanged, CODE is 0,
no data (R160, R162; decision D26). -/
def Obligations.WrbitWritesOneBit : Prop :=
  ∀ (s : State) (x y z : Nat) (v : Bool), x < 5 → y < 5 → z < laneDepth s.l →
    ∃ t, exec (.wrbit x y z v) s = .next t ∧ s.PortsKept t ∧ s.Succeeded t .none ∧ t.sel = s.sel ∧
      t.act (laneDepth s.l * (5 * y + x) + z) = v ∧
      (∀ i, i ≠ laneDepth s.l * (5 * y + x) + z → t.act i = s.act i) ∧ ∀ i, t.scr i = s.scr i

/-- RDBIT right after WRBIT: the written value at the same coordinate, the old bit at any other
(70_reset_and_hazards.md R198, 20_memory.md R61). -/
def Obligations.ReadAfterWrite : Prop :=
  ∀ (s : State) (x y z x' y' z' : Nat) (v : Bool), x < 5 → y < 5 → z < laneDepth s.l →
    x' < 5 → y' < 5 → z' < laneDepth s.l →
    ∃ t u, exec (.wrbit x y z v) s = .next t ∧ exec (.rdbit x' y' z') t = .next u ∧
      u.resp = some ⟨u.status, .bit (if x' = x ∧ y' = y ∧ z' = z then v else s.cube x' y' z')⟩

/-- Repeating GETSTATE, COPYU64, RDBIT, RCBIT, WRBIT or LOAD with the same operands changes nothing more, STATUS and the
response included; the first four change only STATUS (20_memory.md R58). -/
def Obligations.RepeatingChangesNothing : Prop :=
  ∀ (i : Instr) (s t u : State),
    (i = .getstate ∨ i = .copyu64 ∨ (∃ x y z, i = .rdbit x y z) ∨ (∃ n, i = .rcbit n) ∨
      (∃ x y z v, i = .wrbit x y z v) ∨ i = .load) →
    exec i s = .next t → exec i t = .next u →
    u = t ∧ ((i = .getstate ∨ i = .copyu64 ∨ (∃ x y z, i = .rdbit x y z) ∨ (∃ n, i = .rcbit n)) →
      s.OnlyStatusChanges t)

/-! ### The whole machine -/

/-- Who changes SEL: each phase command toggles it once, KECCAK NR 5·NR times where NR ≤ R, ABSORB 5·R times, LOAD sets it
to 0, and no other command changes it; a toggle is `SEL <- 1 − SEL` and moves no data (10_state.md R26, 40_construction.md R90
with decision D18). KECCAK NR with NR > R fails and leaves SEL alone (42_round_sequencer.md R131 with decision D22,
60_exceptions.md R176). -/
def Obligations.SelChangedOnlyByPhasesAndLoad : Prop :=
  (∀ s : State, s.toggleSel = { s with sel := !s.sel }) ∧
  ∀ (i : Instr) (s t : State), exec i s = .next t →
    t.sel = match i with
      | .load => false
      | .theta | .rho | .pi | .chi | .iota _ => !s.sel
      | .keccak nr => if nr ≤ fullRounds s.l then Bool.not^[5 * nr] s.sel else s.sel
      | .absorb => Bool.not^[5 * fullRounds s.l] s.sel
      | .getstate | .copyu64 | .rdbit _ _ _ | .wrbit _ _ _ _ | .rcbit _ => s.sel

/-- The contents of the scratch buffer and the physical place of the active one never reach the host: from two states that
differ only in them, a step gives the same response and two states that differ only in them (10_state.md R31, R32). -/
def Obligations.ScratchAndSelUnobservable : Prop :=
  ∀ s t s' : State, s.SameToHost t → step s = .next s' →
    ∃ t', step t = .next t' ∧ t'.resp = s'.resp ∧ s'.SameToHost t'

/-- Exchanging BUF[0] with BUF[1] and inverting SEL, or replacing the scratch buffer, gives the same responses to every
command sequence (10_state.md R31, R32). -/
def Obligations.SameResponsesUpToScratchAndSel : Prop :=
  (∀ s : State, s.SameToHost { s with buf0 := s.buf1, buf1 := s.buf0, sel := !s.sel }) ∧
  (∀ (s : State) (v : BitVec (stateBits s.l)), s.SameToHost (s.setScr v)) ∧
  ∀ (n : Nat) (s t : State), s.SameToHost t → s.responses n = t.responses n

/-- Every step keeps the invariant: STATUS holds only what the spec allows, an error is always recorded in STICKY, and the
last response carries the present STATUS and no data after a failure (10_state.md R24, 60_exceptions.md R172, R176). -/
def Obligations.StepKeepsInvariant : Prop :=
  ∀ s t : State, s.Inv → step s = .next t → t.Inv

/-- The invariant holds after reset, in every build. -/
def Obligations.InvariantAtReset : Prop :=
  (∀ l : Build, (State.resetOf l).Inv) ∧ State.reset.Inv

/-- Instances do not influence each other: after any interleaving, an instance is where its own steps alone would have
brought it, so every interleaving gives it the same responses (60_exceptions.md R186; the product is log 15). -/
def Obligations.InstancesAreIndependent : Prop :=
  ∀ (p : Platform) (ks : List Nat) (k : Nat),
    (Platform.run p ks)[k]? = (p[k]?).map (State.run (ks.count k))

/-! ### The host's container (20_memory.md) -/

/-- Get and set succeed below `length` and fail with OutOfRange from it on; set writes the low bit of its value and changes
no other bit (R52, for a container with the invariant of R47). -/
def Obligations.ContainerGetAndSet : Prop :=
  ∀ (c : Container) (i v : Nat), c.length ≤ 64 * c.words.length →
    (i < c.length → c.get i = .ok (c.bit i) ∧ ∃ d, c.set i v = .ok d ∧ d.length = c.length ∧
      d.words.length = c.words.length ∧ ∀ j < c.length, d.get j = .ok (if j = i then v.testBit 0 else c.bit j)) ∧
    (c.length ≤ i → c.get i = .error (.raised .outOfRange) ∧ c.set i v = .error (.raised .outOfRange))

/-! ### Pseudo-instructions (30_encoding.md R79) -/

/-- ROUND ir issues the words of THETA, RHO, PI, CHI and IOTA ir, in that order, exactly when `ir` fits the IR field; a
larger `ir` is refused and issues nothing. PERMUTE issues KECCAK R (30_encoding.md R71, R78, R79; decision D17). That a
refused host procedure issues no action is log 21. -/
def Obligations.RoundExpandsWhenIndexFits : Prop :=
  ∀ l : Build,
    (∀ ir < 256, ∃ w : CmdWord, decode w = .ok (.iota ir) ∧ Pseudo.expand l (.round ir) =
      some [.command 0x20000000#32 0, .command 0x30000000#32 0, .command 0x40000000#32 0,
        .command 0x50000000#32 0, .command w 0]) ∧
    (∀ ir, 256 ≤ ir → Pseudo.expand l (.round ir) = none) ∧
    ∃ w : CmdWord, decode w = .ok (.keccak (fullRounds l)) ∧ Pseudo.expand l .permute = some [.command w 0]
end

