-- ==== Sys2Proof/Laws/Bits.lean ====
section
/-! SUPPORT. Bit sequences made from a function, linear offsets and coordinates, and the modular steps. -/

namespace Sys2Proof.Machine

open Sys2Proof.Config

/-! ### Bit sequences -/

theorem bitsNat_lt (f : Nat → Bool) (n : Nat) : bitsNat n f < 2 ^ n := by
  induction n with
  | zero => simp [bitsNat]
  | succ n ih => simp only [bitsNat, Nat.pow_succ]; split <;> omega

theorem testBit_bitsNat (f : Nat → Bool) (n i : Nat) :
    (bitsNat n f).testBit i = (decide (i < n) && f i) := by
  induction n with
  | zero => simp [bitsNat]
  | succ n ih =>
    have hlt := bitsNat_lt f n
    rcases Nat.lt_trichotomy i n with h | h | h
    · have h' : i < n + 1 := by omega
      by_cases hf : f n = true
      · simp [bitsNat, hf, h, h', Nat.add_comm (bitsNat n f), Nat.testBit_two_pow_add_gt h, ih]
      · simp [bitsNat, hf, h, h', ih]
    · subst h
      by_cases hf : f i = true
      · simp [bitsNat, hf, Nat.add_comm (bitsNat i f), Nat.testBit_two_pow_add_eq, ih]
      · simp [bitsNat, hf, ih]
    · have h' : ¬ i < n + 1 := by omega
      have hb : bitsNat (n + 1) f < 2 ^ i :=
        Nat.lt_of_lt_of_le (bitsNat_lt f (n + 1)) (Nat.pow_le_pow_right (by omega) (by omega))
      simp [h', Nat.testBit_lt_two_pow hb]

@[simp] theorem getLsbD_bitsOf (n : Nat) (f : Nat → Bool) (i : Nat) :
    (bitsOf n f).getLsbD i = (decide (i < n) && f i) := by
  simp [bitsOf, BitVec.getLsbD_ofNat, testBit_bitsNat]

@[simp] theorem getElem_bitsOf (n : Nat) (f : Nat → Bool) (i : Nat) (h : i < n) : (bitsOf n f)[i] = f i := by
  rw [← BitVec.getLsbD_eq_getElem, getLsbD_bitsOf]
  simp [h]

/-- A sequence made from the bits of `v` is `v`. -/
@[simp] theorem bitsOf_getLsbD (n : Nat) (v : BitVec n) : bitsOf n v.getLsbD = v := by
  apply BitVec.eq_of_getLsbD_eq
  intro i hi
  simp [hi]

/-- Sequences made from functions that agree below `n` are equal. -/
theorem bitsOf_congr {n : Nat} {f g : Nat → Bool} (h : ∀ i < n, f i = g i) : bitsOf n f = bitsOf n g := by
  apply BitVec.eq_of_getLsbD_eq
  intro i hi
  simp [hi, h i hi]

/-! ### Offsets and coordinates (20_memory.md R40, R45) -/

theorem laneDepth_pos (l : Build) : 0 < laneDepth l := Nat.two_pow_pos _

theorem stateBits_eq (l : Build) : stateBits l = 25 * laneDepth l := rfl

theorem stateBits_pos (l : Build) : 0 < stateBits l := by
  have := laneDepth_pos l
  simp only [stateBits]
  omega

theorem off_lt {w x y z : Nat} (hx : x < 5) (hy : y < 5) (hz : z < w) : off w x y z < 25 * w := by
  have h : w * (5 * y + x) ≤ w * 24 := Nat.mul_le_mul_left w (by omega)
  unfold off
  omega

@[simp] theorem off_div {w x y z : Nat} (hz : z < w) : off w x y z / w = 5 * y + x := by
  unfold off
  rw [Nat.mul_add_div (by omega), Nat.div_eq_of_lt hz, Nat.add_zero]

@[simp] theorem off_mod {w x y z : Nat} (hz : z < w) : off w x y z % w = z := by
  unfold off
  rw [Nat.mul_add_mod, Nat.mod_eq_of_lt hz]

@[simp] theorem xOf_off {w x y z : Nat} (hx : x < 5) (hz : z < w) : xOf w (off w x y z) = x := by
  unfold xOf
  rw [off_div hz]
  omega

@[simp] theorem yOf_off {w x y z : Nat} (hx : x < 5) (hz : z < w) : yOf w (off w x y z) = y := by
  unfold yOf
  rw [off_div hz]
  omega

@[simp] theorem zOf_off {w x y z : Nat} (hz : z < w) : zOf w (off w x y z) = z := off_mod hz

/-- Different coordinates of the cube have different offsets (20_memory.md R40). -/
theorem off_injective {w x y z x' y' z' : Nat} (hx : x < 5) (hz : z < w) (hx' : x' < 5) (hz' : z' < w)
    (h : off w x y z = off w x' y' z') : x = x' ∧ y = y' ∧ z = z' := by
  refine ⟨?_, ?_, ?_⟩
  · rw [← xOf_off (y := y) hx hz, h, xOf_off hx' hz']
  · rw [← yOf_off (y := y) hx hz, h, yOf_off hx' hz']
  · rw [← zOf_off (x := x) (y := y) hz, h, zOf_off hz']

theorem off_xyzOf (w i : Nat) : off w (xOf w i) (yOf w i) (zOf w i) = i := by
  have h : 5 * (i / w / 5) + i / w % 5 = i / w := Nat.div_add_mod (i / w) 5
  unfold off xOf yOf zOf
  rw [h, Nat.div_add_mod]

theorem xOf_lt (w i : Nat) : xOf w i < 5 := Nat.mod_lt _ (by omega)

theorem yOf_lt {w i : Nat} (h : i < 25 * w) : yOf w i < 5 := by
  have : i / w < 25 := Nat.div_lt_of_lt_mul (by rw [Nat.mul_comm]; exact h)
  unfold yOf
  omega

theorem zOf_lt {w : Nat} (hw : 0 < w) (i : Nat) : zOf w i < w := Nat.mod_lt _ hw

/-- The bit of a cube at a coordinate inside it. -/
theorem cubeBits_off (l : Build) (f : Nat → Nat → Nat → Bool) {x y z : Nat} (hx : x < 5) (hy : y < 5)
    (hz : z < laneDepth l) : (cubeBits l f).getLsbD (off (laneDepth l) x y z) = f x y z := by
  have h : off (laneDepth l) x y z < stateBits l := off_lt hx hy hz
  simp [cubeBits, h, hx, hz]

/-- Two B-bit sequences that agree at every coordinate are equal. -/
theorem eq_of_cube_eq (l : Build) {u v : BitVec (stateBits l)}
    (h : ∀ x < 5, ∀ y < 5, ∀ z < laneDepth l,
      u.getLsbD (off (laneDepth l) x y z) = v.getLsbD (off (laneDepth l) x y z)) : u = v := by
  apply BitVec.eq_of_getLsbD_eq
  intro i hi
  have := h _ (xOf_lt (laneDepth l) i) _ (yOf_lt hi) _ (zOf_lt (laneDepth_pos l) i)
  rwa [off_xyzOf] at this

/-! ### Modular steps (00_scope.md R9) -/

theorem subMod_lt (a b : Nat) {n : Nat} (hn : 0 < n) : subMod a b n < n := Nat.mod_lt _ hn

/-- `subMod` is the non-negative remainder of the integer difference (R9). -/
theorem subMod_eq_emod (a b : Nat) {n : Nat} (hn : 0 < n) :
    (subMod a b n : Int) = ((a : Int) - (b : Int)) % (n : Int) := by
  have hb := Nat.mod_lt b hn
  have hdm := Nat.div_add_mod b n
  unfold subMod
  rw [Int.natCast_emod, Int.natCast_add, Int.natCast_sub (by omega)]
  have e : (a : Int) + ((n : Int) - ((b % n : Nat) : Int)) = (a - b) + n * ((b / n : Nat) + 1) := by
    have : (b : Int) = n * (b / n : Nat) + (b % n : Nat) := by exact_mod_cast hdm.symm
    rw [this]
    ring
  rw [e, Int.add_mul_emod_self_left]

/-- Adding back what was taken away. -/
theorem subMod_add_mod (a b : Nat) {n : Nat} (ha : a < n) : subMod ((a + b) % n) b n = a := by
  have hn : 0 < n := by omega
  have hb := Nat.mod_lt b hn
  unfold subMod
  rw [Nat.mod_add_mod]
  have hdm := Nat.div_add_mod b n
  have e : a + b + (n - b % n) = a + n * (b / n + 1) := by
    rw [Nat.mul_add]
    omega
  rw [e, Nat.add_mul_mod_self_left, Nat.mod_eq_of_lt ha]

theorem inCube_iff {w x y z : Nat} : inCube w x y z = true ↔ x < 5 ∧ y < 5 ∧ z < w := by
  simp [inCube, and_assoc]

end Sys2Proof.Machine
end

