-- ==== Sys2Proof/Laws/Container.lean ====
section
/-! SUPPORT. The container's bits: what packing puts in comes out (20_memory.md R44, R47). -/

namespace Sys2Proof.Machine

open Sys2Proof.Config

/-- Bit `i` of a container made from a function is the function's. -/
theorem Container.bit_ofBits (n : Nat) (f : Nat → Bool) {i : Nat} (hi : i < n) : (Container.ofBits n f).bit i = f i := by
  have hw : i / 64 < (n + 63) / 64 := by omega
  have hp : 64 * (i / 64) + (63 - (63 - i % 64)) = i := by omega
  unfold Container.ofBits Container.bit packWords
  simp only [List.getD_eq_getElem?_getD, List.getElem?_map, List.getElem?_range hw, Option.map_some,
    Option.getD_some, getLsbD_bitsOf]
  simp [hp, hi]
  omega

theorem Container.bitOrZero_ofBits (n : Nat) (f : Nat → Bool) (i : Nat) :
    (Container.ofBits n f).bitOrZero i = (decide (i < n) && f i) := by
  unfold Container.bitOrZero
  by_cases h : i < n
  · rw [bit_ofBits n f h]
    rfl
  · simp [Container.ofBits, h]

@[simp] theorem Container.ofBits_length (n : Nat) (f : Nat → Bool) : (Container.ofBits n f).length = n := rfl

/-- The bits of the DIN value a message gives (R55). -/
theorem getLsbD_dinOf (l : Build) (m : Container) {i : Nat} (hi : i < stateBits l) :
    (dinOf l m).getLsbD i = m.bitOrZero i := by
  rw [dinOf, getLsbD_bitsOf]
  simp [hi]

/-- Every container made from a function meets R47's invariant and has zero padding. -/
theorem Container.wf_ofBits (n : Nat) (f : Nat → Bool) : (Container.ofBits n f).wf = true := by
  have hlen : (Container.ofBits n f).words.length = (n + 63) / 64 := by simp [Container.ofBits, packWords]
  have hpad : ∀ i < 64 * ((n + 63) / 64), n ≤ i → (Container.ofBits n f).bit i = false := by
    intro i hi hn
    have hw : i / 64 < (n + 63) / 64 := by omega
    have hp : 64 * (i / 64) + (63 - (63 - i % 64)) = i := by omega
    unfold Container.ofBits Container.bit packWords
    simp only [List.getD_eq_getElem?_getD, List.getElem?_map, List.getElem?_range hw, Option.map_some,
      Option.getD_some, getLsbD_bitsOf]
    simp [hp, hn]
  simp only [Container.wf, hlen, Container.ofBits_length, Bool.and_eq_true, decide_eq_true_eq, List.all_eq_true,
    List.mem_range, Bool.or_eq_true]
  refine ⟨by omega, fun i hi => ?_⟩
  by_cases h : i < n
  · exact .inl (decide_eq_true h)
  · simp [hpad i hi (by omega)]

end Sys2Proof.Machine
end

