-- ==== Sys2Proof/Laws/State.lean ====
section
/-! SUPPORT. One lemma per field and per update of State, true by unfolding, so that no proof unfolds a record
update; and the same for the readers ACT, SCR, A and DIN over the updates that leave them alone. -/

namespace Sys2Proof.Machine

open Sys2Proof.Config

/-! ### finish -/

@[simp] theorem State.finish_l (s : State) (c : BitVec 4) (d : Data) : (s.finish c d).l = s.l := rfl
@[simp] theorem State.finish_w (s : State) (c : BitVec 4) (d : Data) : (s.finish c d).w = s.w := rfl
@[simp] theorem State.finish_b (s : State) (c : BitVec 4) (d : Data) : (s.finish c d).b = s.b := rfl
@[simp] theorem State.finish_rounds (s : State) (c : BitVec 4) (d : Data) : (s.finish c d).rounds = s.rounds := rfl
@[simp] theorem State.finish_buf0 (s : State) (c : BitVec 4) (d : Data) : (s.finish c d).buf0 = s.buf0 := rfl
@[simp] theorem State.finish_buf1 (s : State) (c : BitVec 4) (d : Data) : (s.finish c d).buf1 = s.buf1 := rfl
@[simp] theorem State.finish_sel (s : State) (c : BitVec 4) (d : Data) : (s.finish c d).sel = s.sel := rfl
@[simp] theorem State.finish_actBuf (s : State) (c : BitVec 4) (d : Data) : (s.finish c d).actBuf = s.actBuf := rfl
@[simp] theorem State.finish_scrBuf (s : State) (c : BitVec 4) (d : Data) : (s.finish c d).scrBuf = s.scrBuf := rfl
@[simp] theorem State.finish_act (s : State) (c : BitVec 4) (d : Data) : (s.finish c d).act = s.act := rfl
@[simp] theorem State.finish_scr (s : State) (c : BitVec 4) (d : Data) : (s.finish c d).scr = s.scr := rfl
@[simp] theorem State.finish_cube (s : State) (c : BitVec 4) (d : Data) : (s.finish c d).cube = s.cube := rfl
@[simp] theorem State.finish_din (s : State) (c : BitVec 4) (d : Data) : (s.finish c d).din = s.din := rfl
@[simp] theorem State.finish_dinBit (s : State) (c : BitVec 4) (d : Data) : (s.finish c d).dinBit = s.dinBit := rfl
@[simp] theorem State.finish_inbox (s : State) (c : BitVec 4) (d : Data) : (s.finish c d).inbox = s.inbox := rfl
@[simp] theorem State.finish_status (s : State) (c : BitVec 4) (d : Data) : (s.finish c d).status = updateStatus s.status c := rfl
@[simp] theorem State.finish_resp (s : State) (c : BitVec 4) (d : Data) : (s.finish c d).resp = some ⟨updateStatus s.status c, d⟩ := rfl

/-! ### respond -/

@[simp] theorem State.respond_l (s : State) (d : Data) : (s.respond d).l = s.l := rfl
@[simp] theorem State.respond_w (s : State) (d : Data) : (s.respond d).w = s.w := rfl
@[simp] theorem State.respond_b (s : State) (d : Data) : (s.respond d).b = s.b := rfl
@[simp] theorem State.respond_rounds (s : State) (d : Data) : (s.respond d).rounds = s.rounds := rfl
@[simp] theorem State.respond_buf0 (s : State) (d : Data) : (s.respond d).buf0 = s.buf0 := rfl
@[simp] theorem State.respond_buf1 (s : State) (d : Data) : (s.respond d).buf1 = s.buf1 := rfl
@[simp] theorem State.respond_sel (s : State) (d : Data) : (s.respond d).sel = s.sel := rfl
@[simp] theorem State.respond_actBuf (s : State) (d : Data) : (s.respond d).actBuf = s.actBuf := rfl
@[simp] theorem State.respond_scrBuf (s : State) (d : Data) : (s.respond d).scrBuf = s.scrBuf := rfl
@[simp] theorem State.respond_act (s : State) (d : Data) : (s.respond d).act = s.act := rfl
@[simp] theorem State.respond_scr (s : State) (d : Data) : (s.respond d).scr = s.scr := rfl
@[simp] theorem State.respond_cube (s : State) (d : Data) : (s.respond d).cube = s.cube := rfl
@[simp] theorem State.respond_din (s : State) (d : Data) : (s.respond d).din = s.din := rfl
@[simp] theorem State.respond_dinBit (s : State) (d : Data) : (s.respond d).dinBit = s.dinBit := rfl
@[simp] theorem State.respond_inbox (s : State) (d : Data) : (s.respond d).inbox = s.inbox := rfl
@[simp] theorem State.respond_status (s : State) (d : Data) : (s.respond d).status = updateStatus s.status successCode := rfl
@[simp] theorem State.respond_resp (s : State) (d : Data) : (s.respond d).resp = some ⟨updateStatus s.status successCode, d⟩ := rfl

/-! ### raise -/

@[simp] theorem State.raise_l (s : State) (e : ErrorKind) : (s.raise e).l = s.l := rfl
@[simp] theorem State.raise_w (s : State) (e : ErrorKind) : (s.raise e).w = s.w := rfl
@[simp] theorem State.raise_b (s : State) (e : ErrorKind) : (s.raise e).b = s.b := rfl
@[simp] theorem State.raise_rounds (s : State) (e : ErrorKind) : (s.raise e).rounds = s.rounds := rfl
@[simp] theorem State.raise_buf0 (s : State) (e : ErrorKind) : (s.raise e).buf0 = s.buf0 := rfl
@[simp] theorem State.raise_buf1 (s : State) (e : ErrorKind) : (s.raise e).buf1 = s.buf1 := rfl
@[simp] theorem State.raise_sel (s : State) (e : ErrorKind) : (s.raise e).sel = s.sel := rfl
@[simp] theorem State.raise_actBuf (s : State) (e : ErrorKind) : (s.raise e).actBuf = s.actBuf := rfl
@[simp] theorem State.raise_scrBuf (s : State) (e : ErrorKind) : (s.raise e).scrBuf = s.scrBuf := rfl
@[simp] theorem State.raise_act (s : State) (e : ErrorKind) : (s.raise e).act = s.act := rfl
@[simp] theorem State.raise_scr (s : State) (e : ErrorKind) : (s.raise e).scr = s.scr := rfl
@[simp] theorem State.raise_cube (s : State) (e : ErrorKind) : (s.raise e).cube = s.cube := rfl
@[simp] theorem State.raise_din (s : State) (e : ErrorKind) : (s.raise e).din = s.din := rfl
@[simp] theorem State.raise_dinBit (s : State) (e : ErrorKind) : (s.raise e).dinBit = s.dinBit := rfl
@[simp] theorem State.raise_inbox (s : State) (e : ErrorKind) : (s.raise e).inbox = s.inbox := rfl
@[simp] theorem State.raise_status (s : State) (e : ErrorKind) : (s.raise e).status = updateStatus s.status e.code := rfl
@[simp] theorem State.raise_resp (s : State) (e : ErrorKind) : (s.raise e).resp = some ⟨updateStatus s.status e.code, .none⟩ := rfl

/-! ### setInbox -/

@[simp] theorem State.setInbox_l (s : State) (rest : List (HostAction (stateBits s.l))) : (s.setInbox rest).l = s.l := rfl
@[simp] theorem State.setInbox_w (s : State) (rest : List (HostAction (stateBits s.l))) : (s.setInbox rest).w = s.w := rfl
@[simp] theorem State.setInbox_b (s : State) (rest : List (HostAction (stateBits s.l))) : (s.setInbox rest).b = s.b := rfl
@[simp] theorem State.setInbox_rounds (s : State) (rest : List (HostAction (stateBits s.l))) : (s.setInbox rest).rounds = s.rounds := rfl
@[simp] theorem State.setInbox_buf0 (s : State) (rest : List (HostAction (stateBits s.l))) : (s.setInbox rest).buf0 = s.buf0 := rfl
@[simp] theorem State.setInbox_buf1 (s : State) (rest : List (HostAction (stateBits s.l))) : (s.setInbox rest).buf1 = s.buf1 := rfl
@[simp] theorem State.setInbox_sel (s : State) (rest : List (HostAction (stateBits s.l))) : (s.setInbox rest).sel = s.sel := rfl
@[simp] theorem State.setInbox_actBuf (s : State) (rest : List (HostAction (stateBits s.l))) : (s.setInbox rest).actBuf = s.actBuf := rfl
@[simp] theorem State.setInbox_scrBuf (s : State) (rest : List (HostAction (stateBits s.l))) : (s.setInbox rest).scrBuf = s.scrBuf := rfl
@[simp] theorem State.setInbox_act (s : State) (rest : List (HostAction (stateBits s.l))) : (s.setInbox rest).act = s.act := rfl
@[simp] theorem State.setInbox_scr (s : State) (rest : List (HostAction (stateBits s.l))) : (s.setInbox rest).scr = s.scr := rfl
@[simp] theorem State.setInbox_cube (s : State) (rest : List (HostAction (stateBits s.l))) : (s.setInbox rest).cube = s.cube := rfl
@[simp] theorem State.setInbox_status (s : State) (rest : List (HostAction (stateBits s.l))) : (s.setInbox rest).status = s.status := rfl
@[simp] theorem State.setInbox_din (s : State) (rest : List (HostAction (stateBits s.l))) : (s.setInbox rest).din = s.din := rfl
@[simp] theorem State.setInbox_dinBit (s : State) (rest : List (HostAction (stateBits s.l))) : (s.setInbox rest).dinBit = s.dinBit := rfl
@[simp] theorem State.setInbox_resp (s : State) (rest : List (HostAction (stateBits s.l))) : (s.setInbox rest).resp = s.resp := rfl
@[simp] theorem State.setInbox_inbox (s : State) (rest : List (HostAction (stateBits s.l))) : (s.setInbox rest).inbox = rest := rfl

/-! ### accept -/

@[simp] theorem State.accept_l (s : State) (rest : List (HostAction (stateBits s.l))) (v : BitVec (stateBits s.l)) : (s.accept rest v).l = s.l := rfl
@[simp] theorem State.accept_w (s : State) (rest : List (HostAction (stateBits s.l))) (v : BitVec (stateBits s.l)) : (s.accept rest v).w = s.w := rfl
@[simp] theorem State.accept_b (s : State) (rest : List (HostAction (stateBits s.l))) (v : BitVec (stateBits s.l)) : (s.accept rest v).b = s.b := rfl
@[simp] theorem State.accept_rounds (s : State) (rest : List (HostAction (stateBits s.l))) (v : BitVec (stateBits s.l)) : (s.accept rest v).rounds = s.rounds := rfl
@[simp] theorem State.accept_buf0 (s : State) (rest : List (HostAction (stateBits s.l))) (v : BitVec (stateBits s.l)) : (s.accept rest v).buf0 = s.buf0 := rfl
@[simp] theorem State.accept_buf1 (s : State) (rest : List (HostAction (stateBits s.l))) (v : BitVec (stateBits s.l)) : (s.accept rest v).buf1 = s.buf1 := rfl
@[simp] theorem State.accept_sel (s : State) (rest : List (HostAction (stateBits s.l))) (v : BitVec (stateBits s.l)) : (s.accept rest v).sel = s.sel := rfl
@[simp] theorem State.accept_actBuf (s : State) (rest : List (HostAction (stateBits s.l))) (v : BitVec (stateBits s.l)) : (s.accept rest v).actBuf = s.actBuf := rfl
@[simp] theorem State.accept_scrBuf (s : State) (rest : List (HostAction (stateBits s.l))) (v : BitVec (stateBits s.l)) : (s.accept rest v).scrBuf = s.scrBuf := rfl
@[simp] theorem State.accept_act (s : State) (rest : List (HostAction (stateBits s.l))) (v : BitVec (stateBits s.l)) : (s.accept rest v).act = s.act := rfl
@[simp] theorem State.accept_scr (s : State) (rest : List (HostAction (stateBits s.l))) (v : BitVec (stateBits s.l)) : (s.accept rest v).scr = s.scr := rfl
@[simp] theorem State.accept_cube (s : State) (rest : List (HostAction (stateBits s.l))) (v : BitVec (stateBits s.l)) : (s.accept rest v).cube = s.cube := rfl
@[simp] theorem State.accept_status (s : State) (rest : List (HostAction (stateBits s.l))) (v : BitVec (stateBits s.l)) : (s.accept rest v).status = s.status := rfl
@[simp] theorem State.accept_resp (s : State) (rest : List (HostAction (stateBits s.l))) (v : BitVec (stateBits s.l)) : (s.accept rest v).resp = s.resp := rfl
@[simp] theorem State.accept_inbox (s : State) (rest : List (HostAction (stateBits s.l))) (v : BitVec (stateBits s.l)) : (s.accept rest v).inbox = rest := rfl
@[simp] theorem State.accept_din (s : State) (rest : List (HostAction (stateBits s.l))) (v : BitVec (stateBits s.l)) : (s.accept rest v).din = v := rfl

/-! ### issueNext -/

@[simp] theorem State.issueNext_l (s : State) (word : CmdWord) : (s.issueNext word).l = s.l := rfl
@[simp] theorem State.issueNext_w (s : State) (word : CmdWord) : (s.issueNext word).w = s.w := rfl
@[simp] theorem State.issueNext_b (s : State) (word : CmdWord) : (s.issueNext word).b = s.b := rfl
@[simp] theorem State.issueNext_rounds (s : State) (word : CmdWord) : (s.issueNext word).rounds = s.rounds := rfl
@[simp] theorem State.issueNext_buf0 (s : State) (word : CmdWord) : (s.issueNext word).buf0 = s.buf0 := rfl
@[simp] theorem State.issueNext_buf1 (s : State) (word : CmdWord) : (s.issueNext word).buf1 = s.buf1 := rfl
@[simp] theorem State.issueNext_sel (s : State) (word : CmdWord) : (s.issueNext word).sel = s.sel := rfl
@[simp] theorem State.issueNext_actBuf (s : State) (word : CmdWord) : (s.issueNext word).actBuf = s.actBuf := rfl
@[simp] theorem State.issueNext_scrBuf (s : State) (word : CmdWord) : (s.issueNext word).scrBuf = s.scrBuf := rfl
@[simp] theorem State.issueNext_act (s : State) (word : CmdWord) : (s.issueNext word).act = s.act := rfl
@[simp] theorem State.issueNext_scr (s : State) (word : CmdWord) : (s.issueNext word).scr = s.scr := rfl
@[simp] theorem State.issueNext_cube (s : State) (word : CmdWord) : (s.issueNext word).cube = s.cube := rfl
@[simp] theorem State.issueNext_status (s : State) (word : CmdWord) : (s.issueNext word).status = s.status := rfl
@[simp] theorem State.issueNext_din (s : State) (word : CmdWord) : (s.issueNext word).din = s.din := rfl
@[simp] theorem State.issueNext_dinBit (s : State) (word : CmdWord) : (s.issueNext word).dinBit = s.dinBit := rfl
@[simp] theorem State.issueNext_resp (s : State) (word : CmdWord) : (s.issueNext word).resp = s.resp := rfl
@[simp] theorem State.issueNext_inbox (s : State) (word : CmdWord) : (s.issueNext word).inbox = .command word 0 :: s.inbox := rfl

/-! ### hostReset -/

@[simp] theorem State.hostReset_l (s : State) : (s.hostReset).l = s.l := rfl
@[simp] theorem State.hostReset_w (s : State) : (s.hostReset).w = s.w := rfl
@[simp] theorem State.hostReset_b (s : State) : (s.hostReset).b = s.b := rfl
@[simp] theorem State.hostReset_rounds (s : State) : (s.hostReset).rounds = s.rounds := rfl
@[simp] theorem State.hostReset_din (s : State) : (s.hostReset).din = s.din := rfl
@[simp] theorem State.hostReset_dinBit (s : State) : (s.hostReset).dinBit = s.dinBit := rfl
@[simp] theorem State.hostReset_inbox (s : State) : (s.hostReset).inbox = s.inbox := rfl
@[simp] theorem State.hostReset_buf0 (s : State) : (s.hostReset).buf0 = 0 := rfl
@[simp] theorem State.hostReset_buf1 (s : State) : (s.hostReset).buf1 = 0 := rfl
@[simp] theorem State.hostReset_sel (s : State) : (s.hostReset).sel = false := rfl
@[simp] theorem State.hostReset_status (s : State) : (s.hostReset).status = 0 := rfl
@[simp] theorem State.hostReset_resp (s : State) : (s.hostReset).resp = none := rfl

/-! ### loadDin -/

@[simp] theorem State.loadDin_l (s : State) : (s.loadDin).l = s.l := rfl
@[simp] theorem State.loadDin_w (s : State) : (s.loadDin).w = s.w := rfl
@[simp] theorem State.loadDin_b (s : State) : (s.loadDin).b = s.b := rfl
@[simp] theorem State.loadDin_rounds (s : State) : (s.loadDin).rounds = s.rounds := rfl
@[simp] theorem State.loadDin_status (s : State) : (s.loadDin).status = s.status := rfl
@[simp] theorem State.loadDin_din (s : State) : (s.loadDin).din = s.din := rfl
@[simp] theorem State.loadDin_dinBit (s : State) : (s.loadDin).dinBit = s.dinBit := rfl
@[simp] theorem State.loadDin_inbox (s : State) : (s.loadDin).inbox = s.inbox := rfl
@[simp] theorem State.loadDin_resp (s : State) : (s.loadDin).resp = s.resp := rfl
@[simp] theorem State.loadDin_buf0 (s : State) : (s.loadDin).buf0 = s.din := rfl
@[simp] theorem State.loadDin_buf1 (s : State) : (s.loadDin).buf1 = 0 := rfl
@[simp] theorem State.loadDin_sel (s : State) : (s.loadDin).sel = false := rfl

/-! ### setAct -/

@[simp] theorem State.setAct_l (s : State) (v : BitVec (stateBits s.l)) : (s.setAct v).l = s.l := rfl
@[simp] theorem State.setAct_w (s : State) (v : BitVec (stateBits s.l)) : (s.setAct v).w = s.w := rfl
@[simp] theorem State.setAct_b (s : State) (v : BitVec (stateBits s.l)) : (s.setAct v).b = s.b := rfl
@[simp] theorem State.setAct_rounds (s : State) (v : BitVec (stateBits s.l)) : (s.setAct v).rounds = s.rounds := rfl
@[simp] theorem State.setAct_sel (s : State) (v : BitVec (stateBits s.l)) : (s.setAct v).sel = s.sel := rfl
@[simp] theorem State.setAct_status (s : State) (v : BitVec (stateBits s.l)) : (s.setAct v).status = s.status := rfl
@[simp] theorem State.setAct_din (s : State) (v : BitVec (stateBits s.l)) : (s.setAct v).din = s.din := rfl
@[simp] theorem State.setAct_dinBit (s : State) (v : BitVec (stateBits s.l)) : (s.setAct v).dinBit = s.dinBit := rfl
@[simp] theorem State.setAct_inbox (s : State) (v : BitVec (stateBits s.l)) : (s.setAct v).inbox = s.inbox := rfl
@[simp] theorem State.setAct_resp (s : State) (v : BitVec (stateBits s.l)) : (s.setAct v).resp = s.resp := rfl

/-! ### setScr -/

@[simp] theorem State.setScr_l (s : State) (v : BitVec (stateBits s.l)) : (s.setScr v).l = s.l := rfl
@[simp] theorem State.setScr_w (s : State) (v : BitVec (stateBits s.l)) : (s.setScr v).w = s.w := rfl
@[simp] theorem State.setScr_b (s : State) (v : BitVec (stateBits s.l)) : (s.setScr v).b = s.b := rfl
@[simp] theorem State.setScr_rounds (s : State) (v : BitVec (stateBits s.l)) : (s.setScr v).rounds = s.rounds := rfl
@[simp] theorem State.setScr_sel (s : State) (v : BitVec (stateBits s.l)) : (s.setScr v).sel = s.sel := rfl
@[simp] theorem State.setScr_status (s : State) (v : BitVec (stateBits s.l)) : (s.setScr v).status = s.status := rfl
@[simp] theorem State.setScr_din (s : State) (v : BitVec (stateBits s.l)) : (s.setScr v).din = s.din := rfl
@[simp] theorem State.setScr_dinBit (s : State) (v : BitVec (stateBits s.l)) : (s.setScr v).dinBit = s.dinBit := rfl
@[simp] theorem State.setScr_inbox (s : State) (v : BitVec (stateBits s.l)) : (s.setScr v).inbox = s.inbox := rfl
@[simp] theorem State.setScr_resp (s : State) (v : BitVec (stateBits s.l)) : (s.setScr v).resp = s.resp := rfl

/-! ### toggleSel -/

@[simp] theorem State.toggleSel_l (s : State) : (s.toggleSel).l = s.l := rfl
@[simp] theorem State.toggleSel_w (s : State) : (s.toggleSel).w = s.w := rfl
@[simp] theorem State.toggleSel_b (s : State) : (s.toggleSel).b = s.b := rfl
@[simp] theorem State.toggleSel_rounds (s : State) : (s.toggleSel).rounds = s.rounds := rfl
@[simp] theorem State.toggleSel_buf0 (s : State) : (s.toggleSel).buf0 = s.buf0 := rfl
@[simp] theorem State.toggleSel_buf1 (s : State) : (s.toggleSel).buf1 = s.buf1 := rfl
@[simp] theorem State.toggleSel_status (s : State) : (s.toggleSel).status = s.status := rfl
@[simp] theorem State.toggleSel_din (s : State) : (s.toggleSel).din = s.din := rfl
@[simp] theorem State.toggleSel_dinBit (s : State) : (s.toggleSel).dinBit = s.dinBit := rfl
@[simp] theorem State.toggleSel_inbox (s : State) : (s.toggleSel).inbox = s.inbox := rfl
@[simp] theorem State.toggleSel_resp (s : State) : (s.toggleSel).resp = s.resp := rfl
@[simp] theorem State.toggleSel_sel (s : State) : (s.toggleSel).sel = (!s.sel) := rfl

/-! ### phase -/

@[simp] theorem State.phase_l (s : State) (f : Nat → Nat → Nat → Bool) : (s.phase f).l = s.l := rfl
@[simp] theorem State.phase_w (s : State) (f : Nat → Nat → Nat → Bool) : (s.phase f).w = s.w := rfl
@[simp] theorem State.phase_b (s : State) (f : Nat → Nat → Nat → Bool) : (s.phase f).b = s.b := rfl
@[simp] theorem State.phase_rounds (s : State) (f : Nat → Nat → Nat → Bool) : (s.phase f).rounds = s.rounds := rfl
@[simp] theorem State.phase_status (s : State) (f : Nat → Nat → Nat → Bool) : (s.phase f).status = s.status := rfl
@[simp] theorem State.phase_din (s : State) (f : Nat → Nat → Nat → Bool) : (s.phase f).din = s.din := rfl
@[simp] theorem State.phase_dinBit (s : State) (f : Nat → Nat → Nat → Bool) : (s.phase f).dinBit = s.dinBit := rfl
@[simp] theorem State.phase_inbox (s : State) (f : Nat → Nat → Nat → Bool) : (s.phase f).inbox = s.inbox := rfl
@[simp] theorem State.phase_resp (s : State) (f : Nat → Nat → Nat → Bool) : (s.phase f).resp = s.resp := rfl
@[simp] theorem State.phase_sel (s : State) (f : Nat → Nat → Nat → Bool) : (s.phase f).sel = (!s.sel) := rfl

/-! ### memWrite -/

@[simp] theorem State.memWrite_l (s : State) (i n : Nat) (v : BitVec n) : (s.memWrite i n v).l = s.l := rfl
@[simp] theorem State.memWrite_w (s : State) (i n : Nat) (v : BitVec n) : (s.memWrite i n v).w = s.w := rfl
@[simp] theorem State.memWrite_b (s : State) (i n : Nat) (v : BitVec n) : (s.memWrite i n v).b = s.b := rfl
@[simp] theorem State.memWrite_rounds (s : State) (i n : Nat) (v : BitVec n) : (s.memWrite i n v).rounds = s.rounds := rfl
@[simp] theorem State.memWrite_sel (s : State) (i n : Nat) (v : BitVec n) : (s.memWrite i n v).sel = s.sel := rfl
@[simp] theorem State.memWrite_status (s : State) (i n : Nat) (v : BitVec n) : (s.memWrite i n v).status = s.status := rfl
@[simp] theorem State.memWrite_din (s : State) (i n : Nat) (v : BitVec n) : (s.memWrite i n v).din = s.din := rfl
@[simp] theorem State.memWrite_dinBit (s : State) (i n : Nat) (v : BitVec n) : (s.memWrite i n v).dinBit = s.dinBit := rfl
@[simp] theorem State.memWrite_inbox (s : State) (i n : Nat) (v : BitVec n) : (s.memWrite i n v).inbox = s.inbox := rfl
@[simp] theorem State.memWrite_resp (s : State) (i n : Nat) (v : BitVec n) : (s.memWrite i n v).resp = s.resp := rfl

/-! ### xorDin -/

@[simp] theorem State.xorDin_l (s : State) : (s.xorDin).l = s.l := rfl
@[simp] theorem State.xorDin_w (s : State) : (s.xorDin).w = s.w := rfl
@[simp] theorem State.xorDin_b (s : State) : (s.xorDin).b = s.b := rfl
@[simp] theorem State.xorDin_rounds (s : State) : (s.xorDin).rounds = s.rounds := rfl
@[simp] theorem State.xorDin_sel (s : State) : (s.xorDin).sel = s.sel := rfl
@[simp] theorem State.xorDin_status (s : State) : (s.xorDin).status = s.status := rfl
@[simp] theorem State.xorDin_din (s : State) : (s.xorDin).din = s.din := rfl
@[simp] theorem State.xorDin_dinBit (s : State) : (s.xorDin).dinBit = s.dinBit := rfl
@[simp] theorem State.xorDin_inbox (s : State) : (s.xorDin).inbox = s.inbox := rfl
@[simp] theorem State.xorDin_resp (s : State) : (s.xorDin).resp = s.resp := rfl

/-! ### round -/

@[simp] theorem State.round_l (s : State) (ir : Nat) : (s.round ir).l = s.l := rfl
@[simp] theorem State.round_w (s : State) (ir : Nat) : (s.round ir).w = s.w := rfl
@[simp] theorem State.round_b (s : State) (ir : Nat) : (s.round ir).b = s.b := rfl
@[simp] theorem State.round_rounds (s : State) (ir : Nat) : (s.round ir).rounds = s.rounds := rfl
@[simp] theorem State.round_status (s : State) (ir : Nat) : (s.round ir).status = s.status := rfl
@[simp] theorem State.round_din (s : State) (ir : Nat) : (s.round ir).din = s.din := rfl
@[simp] theorem State.round_dinBit (s : State) (ir : Nat) : (s.round ir).dinBit = s.dinBit := rfl
@[simp] theorem State.round_inbox (s : State) (ir : Nat) : (s.round ir).inbox = s.inbox := rfl
@[simp] theorem State.round_resp (s : State) (ir : Nat) : (s.round ir).resp = s.resp := rfl

/-! ### reset -/

@[simp] theorem State.resetOf_l (l : Build) : (State.resetOf l).l = l := rfl
@[simp] theorem State.resetOf_buf0 (l : Build) : (State.resetOf l).buf0 = 0 := rfl
@[simp] theorem State.resetOf_buf1 (l : Build) : (State.resetOf l).buf1 = 0 := rfl
@[simp] theorem State.resetOf_sel (l : Build) : (State.resetOf l).sel = false := rfl
@[simp] theorem State.resetOf_status (l : Build) : (State.resetOf l).status = 0 := rfl
@[simp] theorem State.resetOf_din (l : Build) : (State.resetOf l).din = 0 := rfl
@[simp] theorem State.resetOf_inbox (l : Build) : (State.resetOf l).inbox = [] := rfl
@[simp] theorem State.resetOf_resp (l : Build) : (State.resetOf l).resp = none := rfl

end Sys2Proof.Machine
end

