-- ==== Sys2Proof/Laws/Ops.lean ====
section
/-! SUPPORT. What each shared operation does, said once: to STATUS, to the two buffers seen through SEL, and over a
row of rounds. -/

namespace Sys2Proof.Machine

open Sys2Proof.Config

/-! ### STATUS (10_state.md R24) -/

@[simp] theorem statusCode_packStatus (b : Bool) (c : BitVec 4) : statusCode (packStatus b c) = c := by
  cases b <;> revert c <;> decide

@[simp] theorem statusSticky_packStatus (b : Bool) (c : BitVec 4) : statusSticky (packStatus b c) = b := by
  cases b <;> revert c <;> decide

@[simp] theorem statusReserved_packStatus (b : Bool) (c : BitVec 4) : statusReserved (packStatus b c) = 0#3 := by
  cases b <;> revert c <;> decide

@[simp] theorem statusCode_updateStatus (st : BitVec 8) (c : BitVec 4) : statusCode (updateStatus st c) = c :=
  statusCode_packStatus _ _

@[simp] theorem statusSticky_updateStatus (st : BitVec 8) (c : BitVec 4) :
    statusSticky (updateStatus st c) = (statusSticky st || c != 0#4) :=
  statusSticky_packStatus _ _

@[simp] theorem statusReserved_updateStatus (st : BitVec 8) (c : BitVec 4) :
    statusReserved (updateStatus st c) = 0#3 :=
  statusReserved_packStatus _ _

theorem errorCode_ne_success (e : ErrorKind) : e.code ≠ successCode := by cases e <;> decide

/-- A second success writes the same STATUS again. -/
@[simp] theorem updateStatus_success_twice (st : BitVec 8) :
    updateStatus (updateStatus st successCode) successCode = updateStatus st successCode := by
  revert st
  decide

/-- A later response replaces an earlier one. -/
theorem State.respond_respond (s : State) (d e : Data) : (s.respond d).respond e = s.respond e := by
  simp only [respond, finish, updateStatus_success_twice]

/-! ### The buffers through SEL (00_scope.md R10) -/

theorem State.act_of_le (s : State) {i : Nat} (h : stateBits s.l ≤ i) : s.act i = false :=
  BitVec.getLsbD_of_ge _ _ h

theorem State.scr_of_le (s : State) {i : Nat} (h : stateBits s.l ≤ i) : s.scr i = false :=
  BitVec.getLsbD_of_ge _ _ h

@[simp] theorem State.setAct_actBuf (s : State) (v : BitVec (stateBits s.l)) : (s.setAct v).actBuf = v := by
  cases h : s.sel <;> simp [setAct, actBuf, h]

@[simp] theorem State.setAct_scrBuf (s : State) (v : BitVec (stateBits s.l)) : (s.setAct v).scrBuf = s.scrBuf := by
  cases h : s.sel <;> simp [setAct, scrBuf, h]

@[simp] theorem State.setScr_actBuf (s : State) (v : BitVec (stateBits s.l)) : (s.setScr v).actBuf = s.actBuf := by
  cases h : s.sel <;> simp [setScr, actBuf, h]

@[simp] theorem State.setScr_scrBuf (s : State) (v : BitVec (stateBits s.l)) : (s.setScr v).scrBuf = v := by
  cases h : s.sel <;> simp [setScr, scrBuf, h]

@[simp] theorem State.toggleSel_actBuf (s : State) : s.toggleSel.actBuf = s.scrBuf := by
  cases h : s.sel <;> simp [toggleSel, actBuf, scrBuf, h]

@[simp] theorem State.toggleSel_scrBuf (s : State) : s.toggleSel.scrBuf = s.actBuf := by
  cases h : s.sel <;> simp [toggleSel, actBuf, scrBuf, h]

@[simp] theorem State.setAct_act (s : State) (v : BitVec (stateBits s.l)) (i : Nat) :
    (s.setAct v).act i = v.getLsbD i := congrArg (·.getLsbD i) (setAct_actBuf s v)

@[simp] theorem State.setAct_scr (s : State) (v : BitVec (stateBits s.l)) (i : Nat) :
    (s.setAct v).scr i = s.scr i := congrArg (·.getLsbD i) (setAct_scrBuf s v)

/-- The new active buffer of a phase is the cube of its function. -/
@[simp] theorem State.phase_actBuf (s : State) (f : Nat → Nat → Nat → Bool) :
    (s.phase f).actBuf = cubeBits s.l f :=
  (toggleSel_actBuf _).trans (setScr_scrBuf s _)

/-- The scratch buffer after a phase is the active buffer before it (10_state.md R31). -/
@[simp] theorem State.phase_scrBuf (s : State) (f : Nat → Nat → Nat → Bool) : (s.phase f).scrBuf = s.actBuf :=
  (toggleSel_scrBuf _).trans (setScr_actBuf s _)

@[simp] theorem State.phase_scr (s : State) (f : Nat → Nat → Nat → Bool) (i : Nat) : (s.phase f).scr i = s.act i :=
  congrArg (·.getLsbD i) (phase_scrBuf s f)

/-- The new cube of a phase (00_scope.md R12). -/
theorem State.phase_cube (s : State) (f : Nat → Nat → Nat → Bool) {x y z : Nat} (h : inCube s.w x y z = true) :
    (s.phase f).cube x y z = f x y z := by
  obtain ⟨hx, hy, hz⟩ := inCube_iff.mp h
  have e : (s.phase f).cube x y z = (cubeBits s.l f).getLsbD (off (laneDepth s.l) x y z) :=
    congrArg (·.getLsbD (off (laneDepth s.l) x y z)) (phase_actBuf s f)
  rw [e, cubeBits_off s.l f hx hy hz]

/-! ### LOAD's and ABSORB's writes, MemRead and MemWrite -/

@[simp] theorem State.loadDin_act (s : State) (i : Nat) : s.loadDin.act i = s.dinBit i := rfl

@[simp] theorem State.loadDin_scr (s : State) (i : Nat) : s.loadDin.scr i = false := by
  show (0 : BitVec (stateBits s.l)).getLsbD i = false
  simp

@[simp] theorem State.xorDin_act (s : State) (i : Nat) : s.xorDin.act i = (s.act i ^^ s.dinBit i) := by
  simp [xorDin, act, dinBit]

@[simp] theorem State.xorDin_scr (s : State) (i : Nat) : s.xorDin.scr i = s.scr i := by simp [xorDin]

theorem State.getLsbD_memRead (s : State) (i n k : Nat) :
    (s.memRead i n).getLsbD k = (decide (k < n) && s.act (i + k)) := getLsbD_bitsOf _ _ _

/-- Every active bit after MemWrite (00_scope.md R11). -/
theorem State.memWrite_act (s : State) (i n : Nat) (v : BitVec n) {j : Nat} (hj : j < stateBits s.l) :
    (s.memWrite i n v).act j = if i ≤ j ∧ j < i + n then v.getLsbD (j - i) else s.act j := by
  rw [memWrite, setAct_act, getLsbD_bitsOf]
  simp [hj]

/-- Every active bit after writing one bit at a coordinate inside the cube. -/
theorem State.memWrite_one (s : State) {x y z : Nat} (h : inCube s.w x y z = true) (v : Bool) (i : Nat) :
    (s.memWrite (off s.w x y z) 1 (BitVec.ofBool v)).act i = if i = off s.w x y z then v else s.act i := by
  obtain ⟨hx, hy, hz⟩ := inCube_iff.mp h
  have ho : off s.w x y z < stateBits s.l := off_lt hx hy hz
  by_cases hi : i < stateBits s.l
  · rw [memWrite_act s _ _ _ hi]
    by_cases he : i = off s.w x y z
    · subst he
      simp
    · rw [if_neg (by omega), if_neg he]
  · rw [act_of_le _ (by simp; omega), if_neg (by omega), act_of_le s (by omega)]

@[simp] theorem State.memWrite_scr (s : State) (i n : Nat) (v : BitVec n) (j : Nat) :
    (s.memWrite i n v).scr j = s.scr j := by simp [memWrite]

/-! ### Rounds (42_round_sequencer.md R130, R131) -/

/-- Five toggles are one. -/
@[simp] theorem State.round_sel (s : State) (ir : Nat) : (s.round ir).sel = !s.sel := by
  simp [round, thetaPhase, rhoPhase, piPhase, chiPhase, iotaPhase]

/-- A phase writes buffers and SEL, nothing else. -/
theorem State.phase_eq (s : State) (f : Nat → Nat → Nat → Bool) :
    ∃ b0 b1 q, s.phase f = { s with buf0 := b0, buf1 := b1, sel := q } := ⟨_, _, _, rfl⟩

/-- Rounds write buffers and SEL, nothing else, whatever their number. -/
theorem State.runRounds_eq (s : State) (ir n : Nat) :
    ∃ b0 b1 q, s.runRounds ir n = { s with buf0 := b0, buf1 := b1, sel := q } := by
  induction n generalizing s ir with
  | zero => exact ⟨_, _, _, rfl⟩
  | succ n ih =>
    obtain ⟨b0, b1, q, h⟩ := ih (s.round ir) (ir + 1)
    exact ⟨b0, b1, q, h⟩

@[simp] theorem State.runRounds_l (s : State) (ir n : Nat) : (s.runRounds ir n).l = s.l := by
  obtain ⟨_, _, _, h⟩ := s.runRounds_eq ir n
  rw [h]

@[simp] theorem State.runRounds_status (s : State) (ir n : Nat) : (s.runRounds ir n).status = s.status := by
  obtain ⟨_, _, _, h⟩ := s.runRounds_eq ir n
  rw [h]

@[simp] theorem State.runRounds_dinBit (s : State) (ir n i : Nat) : (s.runRounds ir n).dinBit i = s.dinBit i := by
  induction n generalizing s ir with
  | zero => rfl
  | succ n ih => exact ih (s.round ir) (ir + 1)

/-- SEL after `n` rounds is inverted when `n` is odd (R131). -/
theorem State.runRounds_sel (s : State) (ir n : Nat) : (s.runRounds ir n).sel = (s.sel ^^ decide (n % 2 = 1)) := by
  induction n generalizing s ir with
  | zero => simp [runRounds]
  | succ n ih =>
    rw [runRounds, ih, round_sel]
    rcases Nat.mod_two_eq_zero_or_one n with h | h
    · simp [h, show (n + 1) % 2 = 1 by omega]
    · simp [h, show (n + 1) % 2 = 0 by omega]

/-- Rounds compose in the order of their indices (R133). -/
theorem State.runRounds_add (s : State) (ir m n : Nat) :
    s.runRounds ir (m + n) = (s.runRounds ir m).runRounds (ir + m) n := by
  induction m generalizing s ir with
  | zero => simp [runRounds]
  | succ m ih =>
    rw [Nat.succ_add, runRounds, ih, runRounds]
    congr 1
    omega

/-- A phase neither reads nor writes STATUS and the response. -/
theorem State.respond_phase (s : State) (d : Data) (f : Nat → Nat → Nat → Bool) :
    (s.respond d).phase f = (s.phase f).respond d := rfl

theorem State.respond_thetaPhase (s : State) (d : Data) : (s.respond d).thetaPhase = s.thetaPhase.respond d := rfl

theorem State.respond_rhoPhase (s : State) (d : Data) : (s.respond d).rhoPhase = s.rhoPhase.respond d := rfl

theorem State.respond_piPhase (s : State) (d : Data) : (s.respond d).piPhase = s.piPhase.respond d := rfl

theorem State.respond_chiPhase (s : State) (d : Data) : (s.respond d).chiPhase = s.chiPhase.respond d := rfl

theorem State.respond_iotaPhase (s : State) (d : Data) (ir : Nat) :
    (s.respond d).iotaPhase ir = (s.iotaPhase ir).respond d := rfl

/-- Rounds neither read nor write STATUS and the response (R130). -/
theorem State.respond_runRounds (s : State) (d : Data) (ir n : Nat) :
    (s.respond d).runRounds ir n = (s.runRounds ir n).respond d := by
  induction n generalizing s ir with
  | zero => rfl
  | succ n ih => exact ih (s.round ir) (ir + 1)

/-! ### The round-constant register (41_round_phases.md R110) -/

theorem rc_mod (t : Nat) : rc (t % 255) = rc t := by simp [rc]

end Sys2Proof.Machine
end

