-- ==== Sys2Proof/Laws/Exec.lean ====
section
/-! SUPPORT. What a command and a step can do, said once: a command either writes buffers and SEL and responds, or
raises OutOfRange and writes nothing; a step serves the host's next action. -/

namespace Sys2Proof.Machine

open Sys2Proof.Config

/-! ### How a command ends -/

/-- `respond` reports success, whatever else the command wrote. -/
theorem State.respond_succeeded (s u : State) (d : Data) (h : u.status = s.status) : s.Succeeded (u.respond d) d := by
  refine ⟨by simp [successCode], ?_, by simp, rfl⟩
  simp [successCode, h]

/-- `raise` reports the error and changes nothing else. -/
theorem State.raise_failedWith (s : State) (e : ErrorKind) : s.FailedWith (s.raise e) e.code := by
  have h := errorCode_ne_success e
  simp only [successCode, ne_eq] at h
  refine ⟨⟨_, _, rfl⟩, by simp, ?_, by simp, rfl⟩
  simp [h]

/-! ### The commands with an operand check -/

theorem exec_keccak_legal (s : State) {nr : Nat} (h : nr ≤ fullRounds s.l) :
    exec (.keccak nr) s = .next ((s.runRounds (fullRounds s.l - nr) nr).respond .none) := by
  simp [exec, execKeccak, roundsLegal, h, State.rounds]

theorem exec_keccak_beyond (s : State) {nr : Nat} (h : fullRounds s.l < nr) :
    exec (.keccak nr) s = .next (s.raise .outOfRange) := by
  simp [exec, execKeccak, roundsLegal, h]

theorem exec_copyu64_full (s : State) (h : 64 ≤ stateBits s.l) :
    exec .copyu64 s = .next (s.respond (.word s.firstWord)) := by
  simp [exec, execCopyu64, hasWord, h]

theorem exec_copyu64_short (s : State) (h : stateBits s.l < 64) :
    exec .copyu64 s = .next (s.raise .outOfRange) := by
  simp [exec, execCopyu64, hasWord, h]

theorem exec_rdbit_inside (s : State) {x y z : Nat} (h : inCube s.w x y z = true) :
    exec (.rdbit x y z) s = .next (s.respond (.bit (s.cube x y z))) := by
  simp [exec, execRdbit, h]

theorem exec_rdbit_outside (s : State) {x y z : Nat} (h : inCube s.w x y z = false) :
    exec (.rdbit x y z) s = .next (s.raise .outOfRange) := by
  simp [exec, execRdbit, h]

theorem exec_wrbit_inside (s : State) {x y z : Nat} (v : Bool) (h : inCube s.w x y z = true) :
    exec (.wrbit x y z v) s =
      .next ((s.memWrite (off s.w x y z) 1 (BitVec.ofBool v)).respond .none) := by
  simp only [exec, execWrbit, h, if_true]

theorem exec_wrbit_outside (s : State) {x y z : Nat} (v : Bool) (h : inCube s.w x y z = false) :
    exec (.wrbit x y z v) s = .next (s.raise .outOfRange) := by
  simp [exec, execWrbit, h]

/-! ### Everything a command and a step can do -/

/-- Every command either succeeds, writing at most the buffers and SEL, or raises OutOfRange. -/
theorem exec_cases (i : Instr) (s : State) :
    (∃ b0 b1 q d, exec i s = .next (State.respond { s with buf0 := b0, buf1 := b1, sel := q } d)) ∨
      exec i s = .next (s.raise .outOfRange) := by
  cases i with
  | load => exact .inl ⟨_, _, _, _, rfl⟩
  | theta => exact .inl ⟨_, _, _, _, rfl⟩
  | rho => exact .inl ⟨_, _, _, _, rfl⟩
  | pi => exact .inl ⟨_, _, _, _, rfl⟩
  | chi => exact .inl ⟨_, _, _, _, rfl⟩
  | iota ir => exact .inl ⟨_, _, _, _, rfl⟩
  | keccak nr =>
    cases h : roundsLegal s.l nr
    · exact .inr (by simp [exec, execKeccak, h])
    · obtain ⟨b0, b1, q, e⟩ := s.runRounds_eq (s.rounds - nr) nr
      exact .inl ⟨b0, b1, q, .none, by simp [exec, execKeccak, h, e]⟩
  | absorb =>
    obtain ⟨b0, b1, q, e⟩ := s.xorDin.runRounds_eq 0 s.rounds
    exact .inl ⟨b0, b1, q, .none, by simp only [exec, execAbsorb, e]; rfl⟩
  | getstate => exact .inl ⟨_, _, _, _, rfl⟩
  | copyu64 =>
    cases h : hasWord s.l
    · exact .inr (by simp [exec, execCopyu64, h])
    · exact .inl ⟨s.buf0, s.buf1, s.sel, .word s.firstWord, by simp [exec, execCopyu64, h]⟩
  | rdbit x y z =>
    cases h : inCube s.w x y z
    · exact .inr (by simp [exec, execRdbit, h])
    · exact .inl ⟨s.buf0, s.buf1, s.sel, .bit (s.cube x y z), by simp [exec, execRdbit, h]⟩
  | wrbit x y z v =>
    cases h : inCube s.w x y z
    · exact .inr (by simp [exec, execWrbit, h])
    · exact .inl ⟨_, _, _, _, by simp only [exec, execWrbit, h]; rfl⟩
  | rcbit t => exact .inl ⟨_, _, _, _, rfl⟩

/-- A step with no host action pending. -/
theorem step_idle {s : State} (h : s.inbox = []) : step s = .next s := by simp [step, h]

/-- A step that serves a reset. -/
theorem step_reset {s : State} {rest : List (HostAction (stateBits s.l))} (h : s.inbox = .reset :: rest) :
    step s = .next (s.setInbox rest).hostReset := by simp [step, h]

/-- A step that serves a word of a command. -/
theorem step_command {s : State} {word : CmdWord} {v : BitVec (stateBits s.l)}
    {rest : List (HostAction (stateBits s.l))} {i : Instr} (h : s.inbox = .command word v :: rest)
    (hd : decode word = .ok i) : step s = exec i (s.accept rest v) := by simp [step, h, hd]

/-- A step that serves a word of no command. -/
theorem step_illegal {s : State} {word : CmdWord} {v : BitVec (stateBits s.l)}
    {rest : List (HostAction (stateBits s.l))} {e : DecodeError} (h : s.inbox = .command word v :: rest)
    (hd : decode word = .error e) : step s = .next ((s.accept rest v).raise .illegalCommand) := by
  simp [step, h, hd]

/-- Everything a step can do: nothing, a reset, a command that responds, or a command that raises one of the block's
two errors. -/
theorem step_cases (s : State) :
    (s.inbox = [] ∧ step s = .next s) ∨
    (∃ rest, s.inbox = .reset :: rest ∧ step s = .next (s.setInbox rest).hostReset) ∨
    (∃ word v rest, s.inbox = .command word v :: rest ∧
      ((∃ b0 b1 q d,
          step s = .next (State.respond { s.accept rest v with buf0 := b0, buf1 := b1, sel := q } d)) ∨
        step s = .next ((s.accept rest v).raise .outOfRange) ∨
        step s = .next ((s.accept rest v).raise .illegalCommand))) := by
  match h : s.inbox with
  | [] => exact .inl ⟨rfl, step_idle h⟩
  | .reset :: rest => exact .inr (.inl ⟨rest, rfl, step_reset h⟩)
  | .command word v :: rest =>
    refine .inr (.inr ⟨word, v, rest, rfl, ?_⟩)
    match hd : decode word with
    | .error e => exact .inr (.inr (step_illegal h hd))
    | .ok i =>
      rw [step_command h hd]
      rcases exec_cases i (s.accept rest v) with ⟨b0, b1, q, d, e⟩ | e
      · exact .inl ⟨b0, b1, q, d, e⟩
      · exact .inr (.inl e)

end Sys2Proof.Machine
end

