-- ==== Sys2Proof/Laws/PerInstr.lean ====
section
/-! SUPPORT. A statement for every command, made per constructor: the OP field of its word (30_encoding.md R71, R73). -/

namespace Sys2Proof.Laws.OpcodeField

/-- The word of the command carries the command's opcode in bits [31:28], whatever its operands. -/
def Statement (i : Instr) : Prop := field (encode i) 28 4 = (opcodeOf i).toNat

theorem load : Statement .load := rfl

theorem theta : Statement .theta := rfl

theorem rho : Statement .rho := rfl

theorem pi : Statement .pi := rfl

theorem chi : Statement .chi := rfl

theorem iota (ir : Nat) : Statement (.iota ir) := by
  simp only [Statement, field, encode, opcodeOf]
  congr 1
  rw [BitVec.extractLsb'_append_eq_of_le (by omega)]
  decide

theorem keccak (nr : Nat) : Statement (.keccak nr) := by
  simp only [Statement, field, encode, opcodeOf]
  congr 1
  rw [BitVec.extractLsb'_append_eq_of_le (by omega)]
  decide

theorem absorb : Statement .absorb := rfl

theorem getstate : Statement .getstate := rfl

theorem copyu64 : Statement .copyu64 := rfl

theorem rcbit (t : Nat) : Statement (.rcbit t) := by
  simp only [Statement, field, encode, opcodeOf]
  congr 1
  rw [BitVec.extractLsb'_append_eq_of_le (by omega)]
  decide

/-- The OP field of a format C word. -/
theorem field_encodeC (op : BitVec 4) (x y z : Nat) (v : Bool) : field (encodeC op x y z v) 28 4 = op.toNat := by
  simp only [field, encodeC]
  congr 1
  repeat rw [BitVec.extractLsb'_append_eq_of_le (by omega)]
  simp

theorem rdbit (x y z : Nat) : Statement (.rdbit x y z) := field_encodeC _ _ _ _ _

theorem wrbit (x y z : Nat) (v : Bool) : Statement (.wrbit x y z v) := field_encodeC _ _ _ _ _

end Sys2Proof.Laws.OpcodeField
end

