-- ==== Sys2Proof/Tests/Slice0.lean ====
section
/-! SUPPORT. Tests. Expected values come from spec/95_test_vectors.md (their ids are in the comments), from the worked
examples of the command rules, or from the bit positions of 30_encoding.md R71 written out by hand. The last section
shows, for each statement with hypotheses, a concrete case that meets them. -/

namespace Sys2Proof.Tests

open Sys2Proof.Machine Sys2Proof.Config

/-! ### WellFormed refuses a term for each of its checks (R71, R78) -/

theorem test_illFormed_iota : Instr.wellFormed (.iota 256) = false := by decide
theorem test_illFormed_keccak : Instr.wellFormed (.keccak 64) = false := by decide
theorem test_illFormed_rdbit_x : Instr.wellFormed (.rdbit 8 0 0) = false := by decide
theorem test_illFormed_rdbit_y : Instr.wellFormed (.rdbit 0 8 0) = false := by decide
theorem test_illFormed_rdbit_z : Instr.wellFormed (.rdbit 0 0 256) = false := by decide
theorem test_illFormed_wrbit_x : Instr.wellFormed (.wrbit 8 0 0 true) = false := by decide
theorem test_illFormed_wrbit_y : Instr.wellFormed (.wrbit 0 8 0 true) = false := by decide
theorem test_illFormed_wrbit_z : Instr.wellFormed (.wrbit 0 0 256 true) = false := by decide
theorem test_illFormed_rcbit : Instr.wellFormed (.rcbit 65536) = false := by decide

/-! ### Decoding words written out from the tables of R71 (fields separated by underscores) -/

theorem test_decode_load : decode 0b0001_0000000000000000000000000000#32 = .ok .load := by decide
theorem test_decode_theta : decode 0b0010_0000000000000000000000000000#32 = .ok .theta := by decide
theorem test_decode_rho : decode 0b0011_0000000000000000000000000000#32 = .ok .rho := by decide
theorem test_decode_pi : decode 0b0100_0000000000000000000000000000#32 = .ok .pi := by decide
theorem test_decode_chi : decode 0b0101_0000000000000000000000000000#32 = .ok .chi := by decide
theorem test_decode_iota : decode 0b0110_00000000000000000000_10000001#32 = .ok (.iota 129) := by decide
theorem test_decode_keccak : decode 0b0111_0000000000000000000000_100001#32 = .ok (.keccak 33) := by decide
theorem test_decode_absorb : decode 0b1000_0000000000000000000000000000#32 = .ok .absorb := by decide
theorem test_decode_getstate : decode 0b1001_0000000000000000000000000000#32 = .ok .getstate := by decide
theorem test_decode_copyu64 : decode 0b1010_0000000000000000000000000000#32 = .ok .copyu64 := by decide
theorem test_decode_rdbit : decode 0b1011_100_001_10000001_0000000000000_0#32 = .ok (.rdbit 4 1 129) := by decide
theorem test_decode_wrbit : decode 0b1100_011_101_01000000_0000000000000_1#32 = .ok (.wrbit 3 5 64 true) := by
  decide
theorem test_decode_rcbit : decode 0b1101_000000000000_1000000000000001#32 = .ok (.rcbit 32769) := by decide

/-- D-1 to D-7 and B7 of the decode vectors: reserved opcodes and reserved bits. -/
theorem test_decode_reserved :
    [0x00000000#32, 0xE0000000#32, 0xF1234567#32, 0x20000001#32, 0x70000040#32, 0x60000100#32, 0xD0010000#32,
      0xB0000001#32].map decode =
    [.error .reservedOpcode, .error .reservedOpcode, .error .reservedOpcode, .error .reservedBits,
      .error .reservedBits, .error .reservedBits, .error .reservedBits, .error .reservedBits] := by decide

/-- No two rows of the opcode table share a word. -/
theorem test_rows_disjoint :
    opcodeTable.Pairwise fun r q => r.mask &&& q.mask &&& (r.pattern ^^^ q.pattern) ≠ 0 := by decide

/-- R80 the other way round. -/
theorem test_encode_worked :
    [Instr.iota 17, .keccak 18, .rdbit 0 0 63, .wrbit 4 4 7 true, .wrbit 0 0 8 true, .rcbit 255].map encode =
      [0x60000011#32, 0x70000012#32, 0xB00FC000#32, 0xC901C001#32, 0xC0020001#32, 0xD00000FF#32] := by decide

/-! ### Single commands -/

/-- A reset machine whose active cube holds these words. -/
def loaded (l : Build) (ws : List Word64) : State := { State.resetOf l with buf0 := dinOf l (.fromWords ws) }

/-- A reset machine with these words on DIN. -/
def offered (l : Build) (ws : List Word64) : State := { State.resetOf l with din := dinOf l (.fromWords ws) }

/-- The state a command leaves. -/
def after (i : Instr) (s : State) : State :=
  match exec i s with
  | .next t => t
  | .fault _ => s
  | .refused _ => s

/-- The active cube as the spec's vectors write it. -/
def words (s : State) : List Nat := (packWords s.b s.act).map (·.toNat)

/-- L1 and L2: a short message is padded, a long one truncated. -/
theorem test_load : words (after .load (offered 3 [0x6B00000000000000])) = [0x6B00000000000000, 0, 0, 0] ∧
    words (after .load (offered 0 [0xFFFFFFFFFFFFFFFF])) = [0xFFFFFF8000000000] := by decide +kernel

/-- T4. -/
theorem test_theta_w1 : words (after .theta (loaded 0 [0x8000000000000000])) = [0xCA52948000000000] := by
  decide +kernel

/-- T6. -/
theorem test_theta_w8 : words (after .theta (loaded 3 [0x0123456789ABCDEF])) =
    [0xFFDC1809BB5532B2, 0x6E32FEFF5D6E32FE, 0xFF5D6E32FEFF5D6E, 0x3200000000000000] := by decide +kernel

/-- H6. -/
theorem test_rho : words (after .rho
      (loaded 3 [0xFFDC1809BB5532B2, 0x6E32FEFF5D6E32FE, 0xFF5D6E32FEFF5D6E, 0x3200000000000000])) =
    [0xFF6E6090775532CA, 0xDC23DFFFAB37647F, 0xFFBA7332BFFFEA6E, 0xC800000000000000] := by decide +kernel

/-- PI4. -/
theorem test_pi : words (after .pi
      (loaded 3 [0xFF6E6090775532CA, 0xDC23DFFFAB37647F, 0xFFBA7332BFFFEA6E, 0xC800000000000000])) =
    [0xFF32AB73C89023DF, 0xFFEA6ECA3732BF77, 0x55FFBA6E60DC647F, 0xFF00000000000000] := by decide +kernel

/-- X-6. -/
theorem test_chi : words (after .chi
      (loaded 3 [0xFF32AB73C89023DF, 0xFFEA6ECA3732BF77, 0x55FFBA6E60DC647F, 0xFF00000000000000])) =
    [0x76622344C84C03DF, 0xEFC95BCABA723FDD, 0x55BBAB6E40C7E47F, 0x6300000000000000] := by decide +kernel

/-- I7: the mask of IR = 4 at L = 3 is 0xB. -/
theorem test_iota : words (after (.iota 4) (State.resetOf 3)) = [0xD000000000000000, 0, 0, 0] := by decide +kernel

/-- I6: the mask of IR = 3 at L = 3 is 0. -/
theorem test_iota_no_flip : words (after (.iota 3) (State.resetOf 3)) = [0, 0, 0, 0] := by decide +kernel

/-- K12. -/
theorem test_keccak_one : words (after (.keccak 1) (loaded 3 [0x0123456789ABCDEF])) =
    [0x76622344C84C03DF, 0xEFC95BCABA723FDD, 0x55BBAB6E40C7E47F, 0x6300000000000000] := by decide +kernel

/-- K7: a whole schedule at L = 1. -/
theorem test_keccak_full : words (after (.keccak 14) (State.resetOf 1)) = [0x04B6068FE9AC0000] := by decide +kernel

/-- K4 and K13: NR > R. -/
theorem test_keccak_beyond : (after (.keccak 19) (State.resetOf 3)).status = 0x11#8 ∧
    (after (.keccak 63) (State.resetOf 3)).resp = some ⟨0x11#8, .none⟩ := by decide +kernel

/-- A2's identity at L = 0: from the zero cube, ABSORB is LOAD and the full schedule (R140). -/
theorem test_absorb : words (after .absorb (offered 0 [0xDEADBEEF00000000])) =
    words (after (.keccak 12) (after .load (offered 0 [0xDEADBEEF00000000]))) := by decide +kernel

/-- ABSORB keeps what the cube held: R140's XOR before the rounds. -/
theorem test_absorb_xor : words (State.xorDin { offered 0 [0xDEADBEEF00000000] with
      buf0 := dinOf 0 (.fromWords [0x8000000000000000]) }) = [0x5EADBE8000000000] := by decide +kernel

/-- P4, step 8. -/
theorem test_getstate : (after .getstate (loaded 0 [0x8000000000000000])).resp = some ⟨0x00#8, .state 25 1#25⟩ := by
  decide +kernel

/-- E3 and E5. -/
theorem test_copyu64 : (after .copyu64 (loaded 2 [0x8000000000000001])).resp =
      some ⟨0x00#8, .word 0x8000000000000001#64⟩ ∧
    (after .copyu64 (State.resetOf 1)).resp = some ⟨0x11#8, .none⟩ := by decide +kernel

/-- B1 and B2. -/
theorem test_rdbit : (after (.rdbit 0 0 63) (loaded 6 [0x1234CDEF])).resp = some ⟨0x00#8, .bit true⟩ ∧
    (after (.rdbit 0 0 31) (loaded 6 [0x1234CDEF])).resp = some ⟨0x00#8, .bit false⟩ := by decide +kernel

/-- B4 and B6. -/
theorem test_rdbit_outside : (after (.rdbit 5 0 0) (State.resetOf 3)).resp = some ⟨0x11#8, .none⟩ ∧
    (after (.rdbit 4 4 8) (State.resetOf 3)).status = 0x11#8 := by decide +kernel

/-- B3. -/
theorem test_wrbit : words (after (.wrbit 4 4 7 true) (State.resetOf 3)) = [0, 0, 0, 0x0100000000000000] := by
  decide +kernel

/-- B5. -/
theorem test_wrbit_outside : words (after (.wrbit 0 0 8 true) (State.resetOf 3)) = [0, 0, 0, 0] ∧
    (after (.wrbit 0 0 8 true) (State.resetOf 3)).status = 0x11#8 := by decide +kernel

/-- RC1 to RC6. -/
theorem test_rcbit : [0, 1, 8, 255, 256, 65535].map (fun t => (after (.rcbit t) State.reset).resp) =
    [true, false, true, true, false, true].map fun b => some ⟨0x00#8, .bit b⟩ := by decide +kernel

/-- RC7. -/
theorem test_register : lfsrAfter 8 = 0x71#8 ∧ lfsrAfter 15 = 0xC1#8 := by decide +kernel

/-- I3, the cross-check: with seven positions the masks are the FIPS 202 round constants (here rounds 0 to 5). -/
theorem test_iota_fips : ((List.range 6).map fun ir => bitsNat 64 (iotaFlipOf 7 ir)) =
    [0x0000000000000001, 0x0000000000008082, 0x800000000000808A, 0x8000000080008000, 0x000000000000808B,
      0x0000000080000001] := by decide +kernel

/-! ### Steps -/

/-- One step with this word issued to a build. -/
def stepWord (l : Build) (w : Nat) : State := ((State.resetOf l).withFetchWord 32 w).advance

/-- D-1 and B8: IllegalCommand, before the range check. -/
theorem test_step_illegal : (stepWord 3 0x00000000).resp = some ⟨0x15#8, .none⟩ ∧
    (stepWord 3 0xBA000001).resp = some ⟨0x15#8, .none⟩ := by decide +kernel

/-- K2's SEL: one round inverts it. -/
theorem test_step_sel : (stepWord 3 0x70000001).sel = true ∧ (stepWord 3 0x70000000).sel = false := by
  decide +kernel

/-- P4, steps 5 and 8: STICKY stays when a later command succeeds. -/
theorem test_sticky_stays : (after .getstate (stepWord 3 0x70000013)).status = 0x10#8 := by decide +kernel

/-- R190: a reset clears STICKY. -/
theorem test_step_reset : (State.advance { stepWord 3 0x70000013 with inbox := [.reset] }).status = 0x00#8 := by
  decide +kernel

/-! ### The host's side -/

/-- R48's example, and R50's. -/
theorem test_container_bits : (List.range 64).filter (Container.fromWords [0x1234CDEF]).bit =
      [35, 38, 42, 43, 45, 48, 49, 52, 53, 55, 56, 57, 58, 60, 61, 62, 63] ∧
    Container.fromText [0x6B#8] = ⟨[0x6B00000000000000#64], 8⟩ := by decide +kernel

/-- R52: set looks at the low bit only, and fails at the length. -/
theorem test_container_set : (Container.zero 8).set 1 3 = .ok ⟨[0x4000000000000000#64], 8⟩ ∧
    (Container.zero 8).set 1 2 = .ok ⟨[0#64], 8⟩ ∧ (Container.zero 8).set 8 1 = .error (.raised .outOfRange) := by
  decide +kernel

/-- R53 and R49: the errors of append and from_integer_slice. -/
theorem test_container_errors : (Container.zero 8).append [1#64] = .error (.raised .alignmentViolation) ∧
    (Container.zero 64).append [1#64] = .ok ⟨[0#64, 1#64], 128⟩ ∧
    Container.fromIntegerSlice 128 [BitVec.ofNat 128 (2 ^ 64)] = .error (.raised .conversionOverflow) ∧
    Container.fromIntegerSlice 16 [0x1234#16, 0xABCD#16] = .ok ⟨[0x1234ABCD00000000#64], 32⟩ := by decide +kernel

/-- P3: 240 bits are two blocks of 200, and the first begins with the text. -/
theorem test_sponge : (spongeActions 3 (.fromText (List.replicate 30 0x6B#8))).length = 2 ∧
    spongeActions 3 (.zero 0) = [] := by decide +kernel

/-- R92's examples: |M| = 200 fits W = 8; 64 and 300 are refused there. -/
theorem test_construct : (constructDerived 3 (.zero 200)).isSome = true ∧ constructDerived 3 (.zero 64) = none ∧
    constructDerived 3 (.zero 300) = none := by decide +kernel

/-- R79 with R71: ROUND 255 ends with IOTA 255; ROUND 256 has no word for its IOTA and is refused. -/
theorem test_round_fits : Pseudo.expand 0 (.round 255) = some [.command 0x20000000#32 0, .command 0x30000000#32 0,
    .command 0x40000000#32 0, .command 0x50000000#32 0, .command 0x600000FF#32 0] ∧
    Pseudo.expand 0 (.round 256) = none := by decide +kernel

/-- P2: the first sample of the seed 0x3039 is 45 for range 100 and 345 for range 1000. -/
theorem test_sample_output : sampleOutput 100 ⟨0x00#8, .word 0x3039#64⟩ = some 45 ∧
    sampleOutput 1000 ⟨0x00#8, .word 0x3039#64⟩ = some 345 := by decide +kernel

/-- R80, from its assembly text; R78: an operand that does not fit is refused, one out of range is not. -/
theorem test_assemble : assemble 3 "WRBIT 4, 4, 7, 1".toList = some (.command 0xC901C001#32 0) ∧
    assemble 3 "RDBIT 5, 0, 0".toList = some (.command 0xBA000000#32 0) ∧
    assemble 3 "RDBIT 8, 0, 0".toList = none ∧
    assemble 0 "LOAD din=0xFFFFFFFFFFFFFFFF".toList = some (.command 0x10000000#32 0x1FFFFFF#25) := by
  decide +kernel

/-! ### Cases that meet the hypotheses of the statements -/

/-- A machine of the smallest build with one action pending. -/
def pending (a : HostAction 25) : State := { State.resetOf 0 with inbox := [a] }

theorem witness_DecodeOfEncode : [Instr.load, .iota 255, .keccak 63, .rdbit 7 7 255, .wrbit 7 7 255 true,
    .rcbit 65535].all Instr.wellFormed = true := by decide

theorem witness_EncodeOfDecode : decode 0xCFFFC001#32 = .ok (.wrbit 7 7 255 true) := by decide

theorem witness_WordSelectsCommandByMask :
    ⟨"IOTA", 0xFFFFFF00#32, 0x60000000#32⟩ ∈ opcodeTable ∧ 0x600000FF#32 &&& 0xFFFFFF00#32 = 0x60000000#32 := by
  decide

theorem witness_IllegalWordRaisesIllegalCommand :
    field 0x0#32 28 4 = 0x0 ∧ field 0xEFFFFFFF#32 28 4 = 0xE ∧ field 0xF0000000#32 28 4 = 0xF ∧
    (field 0xBA000001#32 28 4 = 0xB ∧ (0xBA000001#32).getLsbD 0 = true) ∧
    (pending (.command 0xBA000001#32 5)).inbox = [.command 0xBA000001#32 5] ∧
    decode 0xBA000001#32 = .error .reservedBits := by decide

theorem witness_StepRunsDecodedCommand :
    (pending (.command 0x10000000#32 5)).inbox = .command 0x10000000#32 5 :: [] ∧
    decode 0x10000000#32 = .ok .load := by decide

theorem witness_PlacedWordRunsNext : decodeTableWord 32 0xD000FFFF = some (.rcbit 65535) := by decide

theorem witness_IdleStepHoldsState : State.reset.inbox = [] := by decide

theorem witness_ResetActionZeroesTheBlock : (pending .reset).inbox = .reset :: [] := by decide

theorem witness_StatusAfterEveryCommand :
    ∃ t, (pending (.command 0x7000003F#32 0)).inbox = .command 0x7000003F#32 0 :: [] ∧
      step (pending (.command 0x7000003F#32 0)) = .next t := ⟨_, rfl, rfl⟩

/-- A machine on which a command has failed, with one more pending. -/
def failedOnce : State := { after (.keccak 63) (State.resetOf 0) with inbox := [.command 0x90000000#32 0] }

theorem witness_StickyStaysUntilReset :
    failedOnce.noResetPending = true ∧ statusSticky failedOnce.status = true := by decide +kernel

theorem witness_CleanRunIffEveryResponseSucceeds :
    (pending (.command 0x7000003F#32 0)).Inv ∧ (pending (.command 0x7000003F#32 0)).noResetPending = true ∧
      statusSticky (pending (.command 0x7000003F#32 0)).status = false :=
  ⟨⟨by decide, by decide, by decide, rfl⟩, by decide, by decide⟩

theorem witness_FailedCommandChangesOnlyStatus :
    ∃ t, exec (.rdbit 5 0 0) (State.resetOf 0) = .next t ∧ statusCode t.status ≠ 0#4 :=
  ⟨_, exec_rdbit_outside _ (by decide), by decide⟩

theorem witness_OnlyOutOfRangeOperandsFail :
    (∃ t, exec (.rdbit 4 4 0) (State.resetOf 0) = .next t) ∧ ∃ t, exec (.rdbit 4 4 1) (State.resetOf 0) = .next t :=
  ⟨⟨_, exec_rdbit_inside _ (by decide)⟩, ⟨_, exec_rdbit_outside _ (by decide)⟩⟩

theorem witness_keccak_counts : (0 ≤ fullRounds 3 ∧ 18 ≤ fullRounds 3) ∧ fullRounds 3 < 19 ∧ 9 + 9 ≤ fullRounds 3 := by
  decide

theorem witness_ScratchHoldsLastIotaInput :
    (∃ t, exec .absorb (offered 0 [0xDEADBEEF00000000]) = .next t) ∧
    ∃ t, 1 ≤ 12 ∧ 12 ≤ fullRounds (State.resetOf 0).l ∧ exec (.keccak 12) (State.resetOf 0) = .next t :=
  ⟨⟨_, rfl⟩, ⟨_, by decide, by decide, exec_keccak_legal _ (by decide)⟩⟩

/-- Two machines with one cube and different scratch buffers and SEL. -/
def twin : State := { State.resetOf 0 with buf0 := 7, buf1 := 5, sel := false }
def twinSwapped : State := { State.resetOf 0 with buf0 := 9, buf1 := 7, sel := true }

theorem witness_KeccakDependsOnCubeOnly : ∃ t u, twin.l = twinSwapped.l ∧
    (∀ i, twin.act i = twinSwapped.act i) ∧ exec (.keccak 2) twin = .next t ∧
    exec (.keccak 2) twinSwapped = .next u :=
  ⟨_, _, rfl, fun _ => rfl, exec_keccak_legal _ (by decide), exec_keccak_legal _ (by decide)⟩

theorem witness_ZeroCubeFixedPoints :
    (∀ i, (State.resetOf 0).act i = false) ∧ (State.resetOf 0).l = 0 ∧
    (∀ i, (State.resetOf 3).act i = false) ∧ (State.resetOf 3).l = 3 :=
  ⟨fun i => by simp [State.act, State.actBuf], rfl, fun i => by simp [State.act, State.actBuf], rfl⟩

theorem witness_BitMovingAndRowPhasesInjective : ∃ t u, twin.l = twinSwapped.l ∧ exec .chi twin = .next t ∧
    exec .chi twinSwapped = .next u ∧ ∀ j, t.act j = u.act j :=
  ⟨_, _, rfl, rfl, rfl, fun _ => rfl⟩

theorem witness_ThetaInjective : ∃ t u, twin.l = twinSwapped.l ∧ exec .theta twin = .next t ∧
    exec .theta twinSwapped = .next u ∧ ∀ j, t.act j = u.act j :=
  ⟨_, _, rfl, rfl, rfl, fun _ => rfl⟩

theorem witness_KeccakInjective : ∃ t u, twin.l = twinSwapped.l ∧ exec (.keccak 0) twin = .next t ∧
    exec (.keccak 0) twinSwapped = .next u ∧ ∀ j, t.act j = u.act j :=
  ⟨_, _, rfl, exec_keccak_legal _ (by decide), exec_keccak_legal _ (by decide), fun _ => rfl⟩

theorem witness_SpongeIssuesOneAbsorbPerBlock :
    1 < ((Container.zero 26).length + stateBits 0 - 1) / stateBits 0 := by decide

theorem witness_CopyRespondsFirstWord : 2 ≤ (State.resetOf 2).l.val ∧ (State.resetOf 1).l.val < 2 := by decide

theorem witness_SamplerFirstWordIsTheSeed :
    2 ≤ (State.resetOf 3).l.val ∧
      State.inbox { State.resetOf 3 with inbox := samplerActions 3 0x3039 1 } = samplerActions 3 0x3039 (0 + 1) :=
  ⟨by decide, rfl⟩

theorem witness_coordinates_outside : 5 ≤ 5 ∧ laneDepth (State.resetOf 3).l ≤ 8 := by decide

theorem witness_coordinates_inside :
    (0 < 5 ∧ 0 < laneDepth (State.resetOf 0).l) ∧ 4 < 5 ∧ 63 < laneDepth (State.resetOf 6).l := by decide

theorem witness_RepeatingChangesNothing :
    ∃ t u, exec (.wrbit 4 4 0 true) (State.resetOf 0) = .next t ∧ exec (.wrbit 4 4 0 true) t = .next u :=
  ⟨_, _, exec_wrbit_inside _ true (by decide), exec_wrbit_inside _ true (by decide)⟩

theorem witness_SelChangedOnlyByPhasesAndLoad :
    (∃ t, exec .theta (State.resetOf 0) = .next t) ∧ ∃ t, exec (.keccak 13) (State.resetOf 0) = .next t :=
  ⟨⟨_, rfl⟩, ⟨_, exec_keccak_beyond _ (by decide)⟩⟩

theorem witness_ScratchAndSelUnobservable : ∃ t, twin.SameToHost twinSwapped ∧ step twin = .next t :=
  ⟨_, ⟨9, 7, true, rfl, rfl⟩, rfl⟩

theorem witness_StepKeepsInvariant : ∃ t, (pending (.command 0x0#32 0)).Inv ∧
    step (pending (.command 0x0#32 0)) = .next t :=
  ⟨_, ⟨by decide, by decide, by decide, rfl⟩, rfl⟩

theorem witness_ContainerGetAndSet : (Container.zero 65).length ≤ 64 * (Container.zero 65).words.length ∧
    64 < (Container.zero 65).length ∧ (Container.zero 65).length ≤ 65 := by decide

theorem witness_RoundExpandsWhenIndexFits : 255 < 256 ∧ 256 ≤ 256 := by decide

theorem witness_orbit_indices : orbit 0 = (1, 0) ∧ orbit 22 = (4, 1) ∧ orbit 23 = (1, 1) := by decide

end Sys2Proof.Tests
end

section
/-! PROOFS. The statements of 00_scope.md: one step, a placed word, and PHASE. -/

namespace Sys2Proof.Proofs.Scope

open Sys2Proof.Machine Sys2Proof.Config

/-! ### The decoder of a table word -/

/-- A table word is accepted exactly when it fits a command word and its bits decode (30_encoding.md R70, log 8). -/
theorem decodeTableWord_eq_some_iff {nbits w : Nat} {i : Instr} :
    decodeTableWord nbits w = some i ↔ nbits ≤ 32 ∧ decode (BitVec.ofNat 32 (w % 2 ^ nbits)) = .ok i := by
  unfold decodeTableWord
  split
  next hfit =>
    cases hd : decode (BitVec.ofNat 32 (w % 2 ^ nbits)) with
    | ok j => simp [hfit, Except.toOption]
    | error e => simp [Except.toOption]
  next hlong => simp [hlong]

/-! ### PHASE (00_scope.md R12) -/

/-- The active bits of a phase, at the offsets of 20_memory.md R40. -/
theorem phase_act_offset (s : State) (f : Nat → Nat → Nat → Bool) {x y z : Nat} (hx : x < 5) (hy : y < 5)
    (hz : z < laneDepth s.l) : (s.phase f).act (laneDepth s.l * (5 * y + x) + z) = f x y z :=
  s.phase_cube f (inCube_iff.mpr ⟨hx, hy, hz⟩)

/-! ### The obligations -/

/-- Settles O8: in each of the outcomes of `step_cases` the next state is named, and none of its updates writes `l`. -/
theorem everyStepAnswersNext : Obligations.EveryStepAnswersNext := by
  intro s
  obtain ⟨-, hidle⟩ | ⟨rest, -, hreset⟩ | ⟨word, v, rest, -, hdone | hrange | hillegal⟩ := step_cases s
  · exact ⟨s, hidle, rfl⟩
  · exact ⟨_, hreset, rfl⟩
  · obtain ⟨b0, b1, q, d, hdone⟩ := hdone
    exact ⟨_, hdone, rfl⟩
  · exact ⟨_, hrange, rfl⟩
  · exact ⟨_, hillegal, rfl⟩

/-- Settles O19, from what PHASE writes (`phase_eq`), the scratch buffer it leaves and the cube it makes. -/
theorem phaseWritesScratchAndSwaps : Obligations.PhaseWritesScratchAndSwaps := fun s f =>
  ⟨s.phase_eq f, s.phase_sel f, s.phase_scr f, fun _ hx _ hy _ hz => phase_act_offset s f hx hy hz⟩

/-- Settles O6: the word is the oldest pending action, so the step takes it and runs its command (`step_command`). -/
theorem stepRunsDecodedCommand : Obligations.StepRunsDecodedCommand := fun _ _ _ _ _ hinbox hdecode =>
  step_command hinbox hdecode

/-- Settles O7: the placed word is the oldest pending action, and taking it gives back the actions that were pending. -/
theorem placedWordRunsNext : Obligations.PlacedWordRunsNext := by
  intro s nbits w i hword
  obtain ⟨-, hdecode⟩ := decodeTableWord_eq_some_iff.mp hword
  exact step_command (s.issueNext_inbox _) hdecode

end Sys2Proof.Proofs.Scope
end

section
/-! PROOFS. The statements of 10_state.md: reset values, STATUS, SEL, what the scratch buffer holds, and that neither
the scratch buffer nor the place of the active one reaches the host. -/

namespace Sys2Proof.Machine

open Sys2Proof.Config

/-! ### How a command ends, and one step of a run -/

/-- A command, legal or not, is taken from the host, writes at most the buffers and SEL, and ends with one of the
block's codes, without data unless it succeeded (00_scope.md R13, 60_exceptions.md R172). -/
theorem step_command_finish {s : State} {word : CmdWord} {v : BitVec (stateBits s.l)}
    {rest : List (HostAction (stateBits s.l))} (h : s.inbox = .command word v :: rest) :
    ∃ b0 b1 q c d, c ∈ blockCodes ∧ (c = successCode ∨ d = .none) ∧
      step s = .next (State.finish { s.accept rest v with buf0 := b0, buf1 := b1, sel := q } c d) := by
  match hd : decode word with
  | .error e => exact ⟨s.buf0, s.buf1, s.sel, _, .none, by decide, .inr rfl, step_illegal h hd⟩
  | .ok i =>
    rw [step_command h hd]
    obtain ⟨b0, b1, q, d, hdone⟩ | hrange := exec_cases i (s.accept rest v)
    · exact ⟨b0, b1, q, successCode, d, by decide, .inl rfl, hdone⟩
    · exact ⟨s.buf0, s.buf1, s.sel, _, .none, by decide, .inr rfl, hrange⟩

theorem mem_blockCodes_iff {c : BitVec 4} : c ∈ blockCodes ↔ c = 0#4 ∨ c = 1#4 ∨ c = 5#4 := by
  simp [blockCodes, successCode, ErrorKind.code]

/-- An outcome names one next state only. -/
theorem eq_of_next {o : Host.Outcome State Fault Refusal} {t u : State} (ht : o = .next t) (hu : o = .next u) :
    t = u := Host.Outcome.next.inj (ht.symm.trans hu)

theorem State.advance_of_step {s t : State} (h : step s = .next t) : s.advance = t := by simp [advance, h]

/-! ### The invariant (10_state.md R24, 60_exceptions.md R172, R176) -/

/-- A command establishes the invariant, whatever STATUS was before. -/
theorem State.inv_finish (s : State) {c : BitVec 4} {d : Data} (hc : c ∈ blockCodes)
    (hd : c = successCode ∨ d = .none) : (s.finish c d).Inv := by
  refine ⟨by simp, by simpa using hc, fun herr => ?_, rfl, ?_⟩
  · simp only [finish_status, statusCode_updateStatus, successCode] at herr
    simp [herr]
  · simpa [Response.consistent] using hd

/-- A reset establishes the invariant. -/
theorem State.inv_of_reset {s : State} (hst : s.status = 0) (hresp : s.resp = none) : s.Inv := by
  rw [Inv, hst, hresp]
  decide

/-! ### STICKY (10_state.md R24) -/

/-- With no reset pending, a step keeps a set STICKY set and still no reset is pending. -/
theorem State.advance_keeps_sticky {s : State} (hno : s.noResetPending = true)
    (hsticky : statusSticky s.status = true) :
    s.advance.noResetPending = true ∧ statusSticky s.advance.status = true := by
  match hin : s.inbox with
  | [] => rw [advance_of_step (step_idle hin)]; exact ⟨hno, hsticky⟩
  | .reset :: rest => simp [noResetPending, hin] at hno
  | .command word v :: rest =>
    obtain ⟨b0, b1, q, c, d, -, -, hstep⟩ := step_command_finish hin
    rw [advance_of_step hstep]
    refine ⟨?_, by simp [hsticky]⟩
    simp only [noResetPending, hin, List.all_cons, Bool.and_eq_true] at hno
    exact hno.2

/-! ### SEL (10_state.md R26) -/

/-- SEL after a command, read off the state the command is known to leave. -/
theorem sel_of_exec {i : Instr} {s t u : State} {q : Bool} (ht : exec i s = .next t) (hu : exec i s = .next u)
    (hq : u.sel = q) : t.sel = q := by
  obtain rfl := eq_of_next hu ht
  exact hq

/-- Each round toggles SEL five times (42_round_sequencer.md R130). -/
theorem State.runRounds_sel_iterate (s : State) (ir n : Nat) :
    (s.runRounds ir n).sel = Bool.not^[5 * n] s.sel := by
  induction n generalizing s ir with
  | zero => rfl
  | succ n ih => simp [runRounds, ih, Nat.mul_succ, Function.iterate_add_apply]

/-! ### What the rounds leave in the scratch buffer (10_state.md R31) -/

/-- After ι the scratch buffer is the cube with its flips undone. -/
theorem State.iotaPhase_scr (s : State) (ir : Nat) {x y z : Nat} (h : inCube s.w x y z = true) :
    (s.iotaPhase ir).scr (off s.w x y z) =
      ((s.iotaPhase ir).cube x y z ^^ (x == 0 && y == 0 && iotaFlip s.l ir z)) := by
  have hscr : (s.iotaPhase ir).scr (off s.w x y z) = s.cube x y z := s.phase_scr _ _
  have hcube : (s.iotaPhase ir).cube x y z = iotaBit s.l ir s.cube x y z := s.phase_cube _ h
  rw [hscr, hcube, iotaBit, Bool.xor_assoc, Bool.xor_self, Bool.xor_false]

/-- A round ends with ι. -/
theorem State.round_scr (s : State) (ir : Nat) {x y z : Nat} (h : inCube s.w x y z = true) :
    (s.round ir).scr (off s.w x y z) =
      ((s.round ir).cube x y z ^^ (x == 0 && y == 0 && iotaFlip s.l ir z)) :=
  s.thetaPhase.rhoPhase.piPhase.chiPhase.iotaPhase_scr ir h

/-- After one round or more, the flips undone are those of the last round. -/
theorem State.runRounds_scr (s : State) (ir : Nat) {n x y z : Nat} (hn : 1 ≤ n) (h : inCube s.w x y z = true) :
    (s.runRounds ir n).scr (off s.w x y z) =
      ((s.runRounds ir n).cube x y z ^^ (x == 0 && y == 0 && iotaFlip s.l (ir + n - 1) z)) := by
  obtain ⟨m, rfl⟩ := Nat.exists_eq_add_of_le' hn
  have hlast : s.runRounds ir (m + 1) = (s.runRounds ir m).round (ir + m) := s.runRounds_add ir m 1
  have hl := s.runRounds_l ir m
  have hround := (s.runRounds ir m).round_scr (ir + m) (x := x) (y := y) (z := z)
  simp only [State.w, hl] at h hround ⊢
  rw [hlast]
  exact hround h

/-! ### States no host can tell apart (10_state.md R31, R32) -/

theorem State.xorDin_actBuf (s : State) : s.xorDin.actBuf = s.actBuf ^^^ s.din := s.setAct_actBuf _

theorem State.memWrite_actBuf (s : State) (i n : Nat) (v : BitVec n) : (s.memWrite i n v).actBuf =
    bitsOf (stateBits s.l) fun j => if i ≤ j ∧ j < i + n then v.getLsbD (j - i) else s.act j :=
  s.setAct_actBuf _

namespace State.SameToHost

variable {s t : State}

theorem refl (s : State) : s.SameToHost s := ⟨s.buf0, s.buf1, s.sel, rfl, rfl⟩

/-- Exchanging the buffers and inverting SEL. -/
theorem swapped (s : State) : s.SameToHost { s with buf0 := s.buf1, buf1 := s.buf0, sel := !s.sel } :=
  ⟨_, _, _, rfl, by cases hq : s.sel <;> simp [actBuf, hq]⟩

/-- Replacing the scratch buffer. -/
theorem setScr (s : State) (v : BitVec (stateBits s.l)) : s.SameToHost (s.setScr v) :=
  ⟨_, _, _, rfl, s.setScr_actBuf v⟩

section
variable (h : s.SameToHost t)
include h

/-! What the relation keeps. -/

theorem l_eq : t.l = s.l := by obtain ⟨_, _, _, rfl, -⟩ := h; rfl

theorem w_eq : t.w = s.w := congrArg laneDepth h.l_eq

theorem b_eq : t.b = s.b := congrArg stateBits h.l_eq

theorem rounds_eq : t.rounds = s.rounds := congrArg fullRounds h.l_eq

theorem resp_eq : t.resp = s.resp := by obtain ⟨_, _, _, rfl, -⟩ := h; rfl

theorem act_eq : t.act = s.act := by
  obtain ⟨b0, b1, q, rfl, hact⟩ := h
  exact congrArg BitVec.getLsbD hact

theorem cube_eq : t.cube = s.cube := by
  funext x y z
  rw [cube, cube, h.act_eq, h.w_eq]

theorem memRead_eq (i n : Nat) : t.memRead i n = s.memRead i n := by rw [memRead, memRead, h.act_eq]

theorem firstWord_eq : t.firstWord = s.firstWord := by rw [firstWord, firstWord, h.act_eq]

/-! What keeps the relation. -/

theorem finish (c : BitVec 4) (d : Data) : (s.finish c d).SameToHost (t.finish c d) := by
  obtain ⟨b0, b1, q, rfl, hact⟩ := h
  exact ⟨b0, b1, q, rfl, hact⟩

theorem respond (d : Data) : (s.respond d).SameToHost (t.respond d) := h.finish _ _

theorem raise (e : ErrorKind) : (s.raise e).SameToHost (t.raise e) := h.finish _ _

theorem loadDin : s.loadDin.SameToHost t.loadDin := by
  obtain ⟨b0, b1, q, rfl, -⟩ := h
  exact refl _

theorem phase {f g : Nat → Nat → Nat → Bool} (hfg : g = f) : (s.phase f).SameToHost (t.phase g) := by
  obtain ⟨b0, b1, q, rfl, -⟩ := h
  refine ⟨_, _, _, rfl, ?_⟩
  rw [phase_actBuf, ← hfg]
  exact phase_actBuf { s with buf0 := b0, buf1 := b1, sel := q } g

theorem thetaPhase : s.thetaPhase.SameToHost t.thetaPhase := h.phase (by rw [h.w_eq, h.cube_eq])

theorem rhoPhase : s.rhoPhase.SameToHost t.rhoPhase := h.phase (by rw [h.w_eq, h.cube_eq])

theorem piPhase : s.piPhase.SameToHost t.piPhase := h.phase (by rw [h.cube_eq])

theorem chiPhase : s.chiPhase.SameToHost t.chiPhase := h.phase (by rw [h.cube_eq])

theorem iotaPhase (ir : Nat) : (s.iotaPhase ir).SameToHost (t.iotaPhase ir) := h.phase (by rw [h.l_eq, h.cube_eq])

theorem round (ir : Nat) : (s.round ir).SameToHost (t.round ir) :=
  h.thetaPhase.rhoPhase.piPhase.chiPhase.iotaPhase ir

theorem runRounds (ir n : Nat) : (s.runRounds ir n).SameToHost (t.runRounds ir n) := by
  induction n generalizing s t ir with
  | zero => exact h
  | succ n ih => exact ih (h.round ir) (ir + 1)

theorem xorDin : s.xorDin.SameToHost t.xorDin := by
  obtain ⟨b0, b1, q, rfl, hact⟩ := h
  refine ⟨_, _, _, rfl, ?_⟩
  rw [xorDin_actBuf, ← hact]
  exact xorDin_actBuf { s with buf0 := b0, buf1 := b1, sel := q }

theorem memWrite (i n : Nat) (v : BitVec n) : (s.memWrite i n v).SameToHost (t.memWrite i n v) := by
  have hact := h.act_eq
  obtain ⟨b0, b1, q, rfl, -⟩ := h
  refine ⟨_, _, _, rfl, ?_⟩
  rw [memWrite_actBuf, ← hact]
  exact memWrite_actBuf { s with buf0 := b0, buf1 := b1, sel := q } i n v

end

end State.SameToHost

/-- Every command keeps the relation: what it writes to the active buffer and answers is made from the active cube, the
operands and DIN. -/
theorem exec_sameToHost (i : Instr) {s t : State} (h : s.SameToHost t) :
    ∃ s' t', exec i s = .next s' ∧ exec i t = .next t' ∧ s'.SameToHost t' := by
  cases i with
  | load => exact ⟨_, _, rfl, rfl, h.loadDin.respond _⟩
  | theta => exact ⟨_, _, rfl, rfl, h.thetaPhase.respond _⟩
  | rho => exact ⟨_, _, rfl, rfl, h.rhoPhase.respond _⟩
  | pi => exact ⟨_, _, rfl, rfl, h.piPhase.respond _⟩
  | chi => exact ⟨_, _, rfl, rfl, h.chiPhase.respond _⟩
  | iota ir => exact ⟨_, _, rfl, rfl, (h.iotaPhase ir).respond _⟩
  | keccak nr =>
    obtain hle | hlt := le_or_gt nr (fullRounds s.l)
    · have ht := exec_keccak_legal t (h.l_eq ▸ hle)
      rw [h.l_eq] at ht
      exact ⟨_, _, exec_keccak_legal s hle, ht, (h.runRounds _ _).respond _⟩
    · exact ⟨_, _, exec_keccak_beyond s hlt, exec_keccak_beyond t (h.l_eq ▸ hlt), h.raise _⟩
  | absorb =>
    refine ⟨_, _, rfl, rfl, ?_⟩
    rw [h.rounds_eq]
    exact (h.xorDin.runRounds _ _).respond _
  | getstate =>
    refine ⟨_, _, rfl, rfl, ?_⟩
    rw [h.b_eq, h.memRead_eq]
    exact h.respond _
  | copyu64 =>
    obtain hle | hlt := le_or_gt 64 (stateBits s.l)
    · have ht := exec_copyu64_full t (h.l_eq ▸ hle)
      rw [h.firstWord_eq] at ht
      exact ⟨_, _, exec_copyu64_full s hle, ht, h.respond _⟩
    · exact ⟨_, _, exec_copyu64_short s hlt, exec_copyu64_short t (h.l_eq ▸ hlt), h.raise _⟩
  | rdbit x y z =>
    cases hin : inCube s.w x y z with
    | true =>
      have ht := exec_rdbit_inside t (h.w_eq ▸ hin)
      rw [h.cube_eq] at ht
      exact ⟨_, _, exec_rdbit_inside s hin, ht, h.respond _⟩
    | false => exact ⟨_, _, exec_rdbit_outside s hin, exec_rdbit_outside t (h.w_eq ▸ hin), h.raise _⟩
  | wrbit x y z v =>
    cases hin : inCube s.w x y z with
    | true =>
      have ht := exec_wrbit_inside t v (h.w_eq ▸ hin)
      rw [h.w_eq] at ht
      exact ⟨_, _, exec_wrbit_inside s v hin, ht, (h.memWrite _ _ _).respond _⟩
    | false => exact ⟨_, _, exec_wrbit_outside s v hin, exec_wrbit_outside t v (h.w_eq ▸ hin), h.raise _⟩
  | rcbit n => exact ⟨_, _, rfl, rfl, h.respond _⟩

/-- Every step keeps the relation. -/
theorem step_sameToHost {s t : State} (h : s.SameToHost t) :
    ∃ s' t', step s = .next s' ∧ step t = .next t' ∧ s'.SameToHost t' := by
  match hin : s.inbox with
  | [] =>
    obtain ⟨b0, b1, q, rfl, hact⟩ := h
    exact ⟨_, _, step_idle hin, step_idle hin, b0, b1, q, rfl, hact⟩
  | .reset :: rest =>
    obtain ⟨b0, b1, q, rfl, -⟩ := h
    exact ⟨_, _, step_reset hin, step_reset hin, .refl _⟩
  | .command word v :: rest =>
    obtain ⟨b0, b1, q, rfl, hact⟩ := h
    have haccept : (s.accept rest v).SameToHost
        (State.accept { s with buf0 := b0, buf1 := b1, sel := q } rest v) := ⟨b0, b1, q, rfl, hact⟩
    match hd : decode word with
    | .ok i =>
      obtain ⟨s', t', hs, ht, h'⟩ := exec_sameToHost i haccept
      have hstep := step_command (s := { s with buf0 := b0, buf1 := b1, sel := q }) hin hd
      exact ⟨s', t', (step_command hin hd).trans hs, hstep.trans ht, h'⟩
    | .error e => exact ⟨_, _, step_illegal hin hd, step_illegal hin hd, haccept.raise _⟩

theorem State.SameToHost.advance {s t : State} (h : s.SameToHost t) : s.advance.SameToHost t.advance := by
  obtain ⟨s', t', hs, ht, h'⟩ := step_sameToHost h
  rwa [advance_of_step hs, advance_of_step ht]

theorem State.SameToHost.responses_eq {s t : State} (h : s.SameToHost t) (n : Nat) :
    s.responses n = t.responses n := by
  induction n generalizing s t with
  | zero => rfl
  | succ n ih => rw [responses, responses, h.advance.resp_eq, ih h.advance]

end Sys2Proof.Machine

/-! ### The obligations -/

namespace Sys2Proof.Proofs.BlockState

open Sys2Proof.Machine Sys2Proof.Config

/-- Settles O53: both states step (`step_sameToHost`), and the relation keeps the response. -/
theorem scratchAndSelUnobservable : Obligations.ScratchAndSelUnobservable := by
  intro s t s' hst hstep
  obtain ⟨u, t', hs, ht, h'⟩ := step_sameToHost hst
  obtain rfl := eq_of_next hs hstep
  exact ⟨t', ht, h'.resp_eq, h'⟩

/-- Settles O54: the two exchanges are cases of the relation, and the responses along a run of steps that keep it. -/
theorem sameResponsesUpToScratchAndSel : Obligations.SameResponsesUpToScratchAndSel :=
  ⟨.swapped, .setScr, fun n _ _ h => h.responses_eq n⟩

/-- Settles O55: an idle step changes nothing, and a reset and a command establish the invariant. -/
theorem stepKeepsInvariant : Obligations.StepKeepsInvariant := by
  intro s t hinv hstep
  match hin : s.inbox with
  | [] =>
    obtain rfl := eq_of_next (step_idle hin) hstep
    exact hinv
  | .reset :: rest =>
    obtain rfl := eq_of_next (step_reset hin) hstep
    exact State.inv_of_reset rfl rfl
  | .command word v :: rest =>
    obtain ⟨b0, b1, q, c, d, hc, hd, hfinish⟩ := step_command_finish hin
    obtain rfl := eq_of_next hfinish hstep
    exact State.inv_finish _ hc hd

/-- Settles O12, from the one way a command ends (`step_command_finish`). -/
theorem statusAfterEveryCommand : Obligations.StatusAfterEveryCommand := by
  intro s t w v rest hin hstep
  obtain ⟨b0, b1, q, c, d, hc, -, hfinish⟩ := step_command_finish hin
  obtain rfl := eq_of_next hfinish hstep
  exact ⟨by simpa using mem_blockCodes_iff.mp hc, by simp, by simp, d, rfl⟩

/-- Settles O13, by induction on the number of steps. -/
theorem stickyStaysUntilReset : Obligations.StickyStaysUntilReset := by
  intro n
  induction n with
  | zero => exact fun _ _ hsticky => hsticky
  | succ n ih =>
    intro s hno hsticky
    obtain ⟨hno', hsticky'⟩ := State.advance_keeps_sticky hno hsticky
    exact ih s.advance hno' hsticky'

/-- Settles O34: both commands end with the round of index R−1. -/
theorem scratchHoldsLastIotaInput : Obligations.ScratchHoldsLastIotaInput := by
  rintro s t i hi hexec x hx y hy z hz
  have hcube : inCube s.w x y z = true := inCube_iff.mpr ⟨hx, hy, hz⟩
  obtain rfl | ⟨nr, rfl, hpos, hle⟩ := hi
  · obtain rfl : (s.xorDin.runRounds 0 s.rounds).respond .none = t := Host.Outcome.next.inj hexec
    have hpos : 1 ≤ s.rounds := by simp [State.rounds, fullRounds]; omega
    have h := s.xorDin.runRounds_scr 0 hpos hcube
    rw [Nat.zero_add] at h
    exact h
  · obtain rfl := eq_of_next (exec_keccak_legal s hle) hexec
    have h := s.runRounds_scr (fullRounds s.l - nr) hpos hcube
    rw [Nat.sub_add_cancel hle] at h
    exact h

/-- Settles O52, by cases on the command; the rounds of KECCAK and ABSORB are `runRounds_sel_iterate`. -/
theorem selChangedOnlyByPhasesAndLoad : Obligations.SelChangedOnlyByPhasesAndLoad := by
  refine ⟨fun _ => rfl, fun i s t hexec => ?_⟩
  cases i with
  | load => exact sel_of_exec hexec rfl rfl
  | theta => exact sel_of_exec hexec rfl rfl
  | rho => exact sel_of_exec hexec rfl rfl
  | pi => exact sel_of_exec hexec rfl rfl
  | chi => exact sel_of_exec hexec rfl rfl
  | iota ir => exact sel_of_exec hexec rfl rfl
  | keccak nr =>
    obtain hle | hlt := le_or_gt nr (fullRounds s.l)
    · exact sel_of_exec hexec (exec_keccak_legal s hle) (by simp [hle, State.runRounds_sel_iterate])
    · exact sel_of_exec hexec (exec_keccak_beyond s hlt) (by simp [hlt])
  | absorb => exact sel_of_exec hexec rfl (s.xorDin.runRounds_sel_iterate 0 s.rounds)
  | getstate => exact sel_of_exec hexec rfl rfl
  | copyu64 =>
    obtain hle | hlt := le_or_gt 64 (stateBits s.l)
    · exact sel_of_exec hexec (exec_copyu64_full s hle) rfl
    · exact sel_of_exec hexec (exec_copyu64_short s hlt) rfl
  | rdbit x y z =>
    cases hin : inCube s.w x y z with
    | true => exact sel_of_exec hexec (exec_rdbit_inside s hin) rfl
    | false => exact sel_of_exec hexec (exec_rdbit_outside s hin) rfl
  | wrbit x y z v =>
    cases hin : inCube s.w x y z with
    | true => exact sel_of_exec hexec (exec_wrbit_inside s v hin) rfl
    | false => exact sel_of_exec hexec (exec_wrbit_outside s v hin) rfl
  | rcbit n => exact sel_of_exec hexec rfl rfl

/-- Settles O11: the reset state holds these values field by field. -/
theorem resetValues : Obligations.ResetValues :=
  ⟨fun l => ⟨fun i => by simp, fun i => by simp, rfl, by simp [statusCode], by simp [statusSticky],
    by simp [statusReserved], rfl⟩, rfl⟩

/-- Settles O56: a reset state of any build has STATUS 0x00 and no response. -/
theorem invariantAtReset : Obligations.InvariantAtReset :=
  ⟨fun _ => State.inv_of_reset rfl rfl, State.inv_of_reset rfl rfl⟩

end Sys2Proof.Proofs.BlockState
end

section
/-! PROOFS. The statements of 20_memory.md: the offset map, repeated commands, and the host's container. -/

namespace Sys2Proof.Machine

open Sys2Proof.Config

/-! ### A command issued again (20_memory.md R58) -/

/-- A command that ends with the same code again writes the same STATUS again: STICKY already holds its error. -/
@[simp] theorem updateStatus_twice (st : BitVec 8) (c : BitVec 4) :
    updateStatus (updateStatus st c) c = updateStatus st c := by
  rw [updateStatus, statusSticky_updateStatus, Bool.or_assoc, Bool.or_self, ← updateStatus]

theorem State.finish_finish (s : State) (c : BitVec 4) (d e : Data) : (s.finish c d).finish c e = s.finish c e := by
  simp only [finish, updateStatus_twice]

theorem State.raise_raise (s : State) (e : ErrorKind) : (s.raise e).raise e = s.raise e := s.finish_finish _ _ _

theorem State.finish_onlyStatusChanges (s : State) (c : BitVec 4) (d : Data) : s.OnlyStatusChanges (s.finish c d) :=
  ⟨_, _, rfl⟩

/-- MemWrite neither reads nor writes STATUS and the response. -/
theorem State.respond_memWrite (s : State) (d : Data) (i n : Nat) (v : BitVec n) :
    (s.respond d).memWrite i n v = (s.memWrite i n v).respond d := rfl

/-- A later write of the active buffer replaces an earlier one. -/
theorem State.setAct_setAct (s : State) (u v : BitVec (stateBits s.l)) : (s.setAct u).setAct v = s.setAct v := by
  cases h : s.sel <;> simp [setAct, h]

/-- Writing the same value to the same place again changes nothing. -/
theorem State.memWrite_memWrite (s : State) (i n : Nat) (v : BitVec n) :
    (s.memWrite i n v).memWrite i n v = s.memWrite i n v := by
  refine (s.setAct_setAct _ _).trans (congrArg s.setAct (bitsOf_congr fun j hj => ?_))
  split
  next => rfl
  next hout => exact (s.memWrite_act i n v hj).trans (if_neg hout)

/-- GETSTATE, COPYU64, RDBIT or RCBIT: the commands that only read. -/
def IsRead (i : Instr) : Prop :=
  i = .getstate ∨ i = .copyu64 ∨ (∃ x y z, i = .rdbit x y z) ∨ ∃ n, i = .rcbit n

/-- A read writes only STATUS and the response, and reads neither: its code and data stay the same when they change. -/
theorem exec_read {i : Instr} (hread : IsRead i) (s : State) :
    ∃ c d, ∀ t, s.OnlyStatusChanges t → exec i t = .next (t.finish c d) := by
  obtain rfl | rfl | ⟨x, y, z, rfl⟩ | ⟨n, rfl⟩ := hread
  · exact ⟨successCode, .state s.b (s.memRead 0 s.b), fun _ ⟨_, _, ht⟩ => ht ▸ rfl⟩
  · obtain hle | hlt := le_or_gt 64 (stateBits s.l)
    · exact ⟨successCode, .word s.firstWord, fun _ ⟨_, _, ht⟩ => ht ▸ exec_copyu64_full _ hle⟩
    · exact ⟨ErrorKind.outOfRange.code, .none, fun _ ⟨_, _, ht⟩ => ht ▸ exec_copyu64_short _ hlt⟩
  · cases hin : inCube s.w x y z with
    | true => exact ⟨successCode, .bit (s.cube x y z), fun _ ⟨_, _, ht⟩ => ht ▸ exec_rdbit_inside _ hin⟩
    | false => exact ⟨ErrorKind.outOfRange.code, .none, fun _ ⟨_, _, ht⟩ => ht ▸ exec_rdbit_outside _ hin⟩
  · exact ⟨successCode, .bit (rc n), fun _ ⟨_, _, ht⟩ => ht ▸ rfl⟩

/-- A read changes only STATUS, and the same read again changes nothing. -/
theorem exec_read_again {i : Instr} (hread : IsRead i) (s : State) :
    ∃ t, exec i s = .next t ∧ exec i t = .next t ∧ s.OnlyStatusChanges t := by
  obtain ⟨c, d, hexec⟩ := exec_read hread s
  have hstatus := s.finish_onlyStatusChanges c d
  refine ⟨_, hexec s ⟨_, _, rfl⟩, ?_, hstatus⟩
  rw [hexec _ hstatus, State.finish_finish]

/-- The same WRBIT again, inside the cube or outside it, changes nothing. -/
theorem exec_wrbit_again (x y z : Nat) (v : Bool) (s : State) :
    ∃ t, exec (.wrbit x y z v) s = .next t ∧ exec (.wrbit x y z v) t = .next t := by
  cases hin : inCube s.w x y z with
  | true =>
    have again := exec_wrbit_inside ((s.memWrite (off s.w x y z) 1 (BitVec.ofBool v)).respond .none) v hin
    simp only [State.respond_w, State.memWrite_w, State.respond_memWrite, State.memWrite_memWrite,
      State.respond_respond] at again
    exact ⟨_, exec_wrbit_inside s v hin, again⟩
  | false =>
    refine ⟨s.raise .outOfRange, exec_wrbit_outside s v hin, ?_⟩
    rw [exec_wrbit_outside (State.raise _ _) v hin, State.raise_raise]

/-- LOAD again takes the same DIN, which LOAD itself leaves alone. -/
theorem exec_load_again (s : State) : ∃ t, exec .load s = .next t ∧ exec .load t = .next t :=
  ⟨_, rfl, congrArg Host.Outcome.next (s.loadDin.respond_respond .none .none)⟩

/-- The same read, WRBIT or LOAD again changes nothing. -/
theorem exec_again {i : Instr} (hi : IsRead i ∨ (∃ x y z v, i = .wrbit x y z v) ∨ i = .load) (s : State) :
    ∃ t, exec i s = .next t ∧ exec i t = .next t := by
  obtain hread | ⟨x, y, z, v, rfl⟩ | rfl := hi
  · obtain ⟨t, hs, ht, -⟩ := exec_read_again hread s
    exact ⟨t, hs, ht⟩
  · exact exec_wrbit_again x y z v s
  · exact exec_load_again s

/-! ### The container's get and set (20_memory.md R47, R52) -/

@[simp] theorem getLsbD_setWordBit (w : Word64) (p : Nat) (b : Bool) (j : Nat) :
    (setWordBit w p b).getLsbD j = (decide (j < 64) && if j = p then b else w.getLsbD j) :=
  getLsbD_bitsOf _ _ _

namespace Container

variable {c : Container} {i j : Nat}

/-- The container with bit `i` replaced. -/
def writeBit (c : Container) (i : Nat) (b : Bool) : Container :=
  ⟨c.words.modify (i / 64) fun w => setWordBit w (63 - i % 64) b, c.length⟩

@[simp] theorem writeBit_length (c : Container) (i : Nat) (b : Bool) : (c.writeBit i b).length = c.length := rfl

@[simp] theorem writeBit_words_length (c : Container) (i : Nat) (b : Bool) :
    (c.writeBit i b).words.length = c.words.length := List.length_modify ..

/-- In a container that has the word of bit `i`, replacing that bit changes no other. -/
theorem bit_writeBit (b : Bool) (hi : i / 64 < c.words.length) (j : Nat) :
    (c.writeBit i b).bit j = if j = i then b else c.bit j := by
  unfold bit writeBit
  simp only [List.getD_eq_getElem?_getD, List.getElem?_modify]
  by_cases hword : i / 64 = j / 64
  · have hplace : 63 - j % 64 = 63 - i % 64 ↔ j = i := by omega
    have hlt : 63 - j % 64 < 64 := by omega
    rw [hword] at hi
    simp only [hword, if_true, List.getElem?_eq_getElem hi, Option.map_eq_map, Option.map_some,
      Option.getD_some, getLsbD_setWordBit, hplace, hlt, decide_true, Bool.true_and]
  · have hne : j ≠ i := fun h => hword (h ▸ rfl)
    simp [hword, hne]

theorem get_of_lt (h : i < c.length) : c.get i = .ok (c.bit i) := if_pos h

theorem get_of_le (h : c.length ≤ i) : c.get i = .error (.raised .outOfRange) := if_neg (Nat.not_lt.mpr h)

theorem get_writeBit (b : Bool) (hi : i / 64 < c.words.length) (hj : j < c.length) :
    (c.writeBit i b).get j = .ok (if j = i then b else c.bit j) :=
  (get_of_lt (c := c.writeBit i b) hj).trans (congrArg _ (bit_writeBit b hi j))

theorem set_of_lt (v : Nat) (h : i < c.length) : c.set i v = .ok (c.writeBit i (v.testBit 0)) := if_pos h

theorem set_of_le (v : Nat) (h : c.length ≤ i) : c.set i v = .error (.raised .outOfRange) :=
  if_neg (Nat.not_lt.mpr h)

end Container

end Sys2Proof.Machine

/-! ### The obligations -/

namespace Sys2Proof.Proofs.Memory

open Sys2Proof.Machine Sys2Proof.Config

/-- Settles O46: the offset is below B, it determines its coordinate, and an offset below B is that of the coordinate
read off it (`off_xyzOf`). -/
theorem offsetMapIsBijection : Obligations.OffsetMapIsBijection := fun l =>
  ⟨fun _ hx _ hy _ hz => ⟨rfl, off_lt hx hy hz⟩,
    fun _ hx _ _ _ hz _ hx' _ _ _ hz' => off_injective hx hz hx' hz',
    fun i hi => ⟨_, xOf_lt _ i, _, yOf_lt hi, _, zOf_lt (laneDepth_pos l) i, off_xyzOf _ i⟩⟩

/-- Settles O51: each of the commands, issued again in the state it leaves, leaves that state. -/
theorem repeatingChangesNothing : Obligations.RepeatingChangesNothing := by
  intro i s t u hi hst htu
  constructor
  · obtain ⟨t', hs, ht⟩ := exec_again (by simpa only [IsRead, or_assoc] using hi) s
    obtain rfl := eq_of_next hs hst
    exact eq_of_next htu ht
  · intro hread
    obtain ⟨t', hs, -, hstatus⟩ := exec_read_again hread s
    obtain rfl := eq_of_next hs hst
    exact hstatus

/-- Settles O58: `set` replaces the one bit (`bit_writeBit`), whose word R47's invariant says is there. -/
theorem containerGetAndSet : Obligations.ContainerGetAndSet := by
  intro c i v hwords
  refine ⟨fun hi => ⟨Container.get_of_lt hi, _, Container.set_of_lt v hi, rfl, by simp, fun j hj => ?_⟩,
    fun hi => ⟨Container.get_of_le hi, Container.set_of_le v hi⟩⟩
  exact Container.get_writeBit _ (by omega) hj

end Sys2Proof.Proofs.Memory
end

section
/-! PROOFS. The statements of 30_encoding.md: decoder and encoder against the opcode table, illegal words, and the
pseudo-instructions. -/

namespace Sys2Proof

/-! ### Fields of a word, and the bits a mask fixes (30_encoding.md R72, R73) -/

theorem field_lt (w : CmdWord) (lo width : Nat) : field w lo width < 2 ^ width := BitVec.isLt _

@[simp] theorem ofNat_field (w : CmdWord) (lo width : Nat) :
    BitVec.ofNat width (field w lo width) = w.extractLsb' lo width := by
  rw [field, BitVec.ofNat_toNat, BitVec.setWidth_eq]

theorem toNat_ofNat_of_fits {width v : Nat} (h : fitsField width v = true) : (BitVec.ofNat width v).toNat = v :=
  (BitVec.toNat_ofNat v width).trans (Nat.mod_eq_of_lt (of_decide_eq_true h))

theorem ofBool_getLsbD_zero (w : CmdWord) : BitVec.ofBool (w.getLsbD 0) = w.extractLsb' 0 1 := by
  rw [← BitVec.setWidth_one, BitVec.setWidth_eq_extractLsb' (by decide)]

/-- Where the mask is all ones, a word that agrees with a row has the row's bits. -/
theorem extract_of_masked {w mask pattern : CmdWord} (h : w &&& mask = pattern) (lo width : Nat)
    (hmask : mask.extractLsb' lo width = BitVec.allOnes width) :
    w.extractLsb' lo width = pattern.extractLsb' lo width := by
  rw [← h, BitVec.extractLsb'_and, hmask, BitVec.and_allOnes]

theorem checkFixed_eq_ok_iff {w mask pattern : CmdWord} {i j : Instr} :
    checkFixed w mask pattern i = .ok j ↔ w &&& mask = pattern ∧ i = j := by
  unfold checkFixed
  split
  next hmask => simp [hmask]
  next hmask => simp [hmask]

theorem checkFixed_of_ne {w mask pattern : CmdWord} (h : w &&& mask ≠ pattern) (i : Instr) :
    checkFixed w mask pattern i = .error .reservedBits := if_neg h

/-! ### The row of a command, and its operands read from a word -/

/-- The row of the opcode table that selects the command: the table is in the order of the opcodes 0x1 to 0xD. -/
def Instr.row (i : Instr) : OpRow := opcodeTable.getD ((opcodeOf i).toNat - 1) ⟨"", 0, 0⟩

/-- The command of the row of `i` with the operands that the fields of `w` give (R72). -/
def Instr.readFrom (w : CmdWord) : Instr → Instr
  | .iota _ => .iota (field w 0 8)
  | .keccak _ => .keccak (field w 0 6)
  | .rdbit _ _ _ => .rdbit (field w 25 3) (field w 22 3) (field w 14 8)
  | .wrbit _ _ _ _ => .wrbit (field w 25 3) (field w 22 3) (field w 14 8) (w.getLsbD 0)
  | .rcbit _ => .rcbit (field w 0 16)
  | i => i

theorem Instr.row_readFrom (w : CmdWord) (i : Instr) : (i.readFrom w).row = i.row := by
  cases i <;> rfl

theorem Instr.readFrom_readFrom (w : CmdWord) (i : Instr) : (i.readFrom w).readFrom w = i.readFrom w := by
  cases i <;> rfl

/-- What is read from the fields of a word fits them (R71). -/
theorem Instr.readFrom_wellFormed (w : CmdWord) (i : Instr) : (i.readFrom w).wellFormed = true := by
  cases i <;> simp only [readFrom, wellFormed, fitsField, field_lt, decide_true, Bool.and_self]

theorem Instr.row_mem (i : Instr) : i.row ∈ opcodeTable := by
  cases i <;> simp [row, opcodeOf, opcodeTable]

/-- Every row of the opcode table is the row of a command. -/
theorem exists_row_eq {r : OpRow} (h : r ∈ opcodeTable) : ∃ i : Instr, i.row = r := by
  simp only [opcodeTable, List.mem_cons, List.not_mem_nil, or_false] at h
  rcases h with rfl | rfl | rfl | rfl | rfl | rfl | rfl | rfl | rfl | rfl | rfl | rfl | rfl
  exacts [⟨.load, rfl⟩, ⟨.theta, rfl⟩, ⟨.rho, rfl⟩, ⟨.pi, rfl⟩, ⟨.chi, rfl⟩, ⟨.iota 0, rfl⟩, ⟨.keccak 0, rfl⟩,
    ⟨.absorb, rfl⟩, ⟨.getstate, rfl⟩, ⟨.copyu64, rfl⟩, ⟨.rdbit 0 0 0, rfl⟩, ⟨.wrbit 0 0 0 false, rfl⟩, ⟨.rcbit 0, rfl⟩]

/-- Every mask of the table fixes the OP field. -/
theorem mask_fixes_op {r : OpRow} (h : r ∈ opcodeTable) : r.mask.extractLsb' 28 4 = BitVec.allOnes 4 := by
  revert r
  decide

/-- No two rows of the table share an opcode. -/
theorem row_eq_of_op_eq {r q : OpRow} (hr : r ∈ opcodeTable) (hq : q ∈ opcodeTable)
    (h : r.pattern.extractLsb' 28 4 = q.pattern.extractLsb' 28 4) : r = q := by
  have hrows : ∀ r ∈ opcodeTable, ∀ q ∈ opcodeTable,
      r.pattern.extractLsb' 28 4 = q.pattern.extractLsb' 28 4 → r = q := by decide
  exact hrows r hr q hq h

theorem Instr.row_op (i : Instr) : i.row.pattern.extractLsb' 28 4 = opcodeOf i := by
  cases i <;> simp [row, opcodeOf, opcodeTable]

/-- A word that agrees with the row of a command has the command's opcode. -/
theorem field_op_of_masked {w : CmdWord} {i : Instr} (h : w &&& i.row.mask = i.row.pattern) :
    field w 28 4 = (opcodeOf i).toNat := by
  rw [field, extract_of_masked h 28 4 (mask_fixes_op i.row_mem), i.row_op]

/-! ### What the decoder does (R77) -/

/-- A word whose OP field is that of a command is checked against the command's row. -/
theorem decode_of_op {w : CmdWord} {i : Instr} (h : field w 28 4 = (opcodeOf i).toNat) :
    decode w = checkFixed w i.row.mask i.row.pattern (i.readFrom w) := by
  unfold decode
  rw [h]
  cases i <;> rfl

/-- The reserved values of the OP field (R74). -/
def reservedOp (op : Nat) : Prop := op = 0x0 ∨ op = 0xE ∨ op = 0xF

theorem decode_of_reservedOp {w : CmdWord} (h : reservedOp (field w 28 4)) : decode w = .error .reservedOpcode := by
  unfold decode
  obtain h | h | h := h <;> simp [h]

/-- The OP field of a word is reserved or a command's. -/
theorem reservedOp_or_command (w : CmdWord) :
    reservedOp (field w 28 4) ∨ ∃ i, field w 28 4 = (opcodeOf i).toNat := by
  have hops : ∀ op < 2 ^ 4, (op = 0x0 ∨ op = 0xE ∨ op = 0xF) ∨
      ∃ r ∈ opcodeTable, op = (r.pattern.extractLsb' 28 4).toNat := by decide
  obtain hres | ⟨r, hr, hop⟩ := hops _ (field_lt w 28 4)
  · exact .inl hres
  · obtain ⟨i, rfl⟩ := exists_row_eq hr
    exact .inr ⟨i, by rw [hop, i.row_op]⟩

/-- A word that agrees with the row of a command decodes to that command with the operands of the word's fields. -/
theorem decode_of_masked {w : CmdWord} {i : Instr} (h : w &&& i.row.mask = i.row.pattern) :
    decode w = .ok (i.readFrom w) :=
  (decode_of_op (field_op_of_masked h)).trans (checkFixed_eq_ok_iff.mpr ⟨h, rfl⟩)

/-- A word decodes to a command exactly when it agrees with the command's row and its fields hold the operands. -/
theorem decode_eq_ok_iff {w : CmdWord} {i : Instr} :
    decode w = .ok i ↔ w &&& i.row.mask = i.row.pattern ∧ i.readFrom w = i := by
  constructor
  · intro h
    obtain hres | ⟨j, hop⟩ := reservedOp_or_command w
    · rw [decode_of_reservedOp hres] at h
      cases h
    · rw [decode_of_op hop, checkFixed_eq_ok_iff] at h
      obtain ⟨hmask, rfl⟩ := h
      exact ⟨by rwa [j.row_readFrom], j.readFrom_readFrom w⟩
  · rintro ⟨hmask, hread⟩
    exact (decode_of_masked hmask).trans (congrArg _ hread)

/-! ### Words whose lowest field is the operand (IOTA, KECCAK, RCBIT; R71) -/

/-- The mask of such a row clears the operand and keeps the rest. -/
theorem append_and_highMask {p n : Nat} (a : BitVec p) (b : BitVec n) :
    (a ++ b) &&& (BitVec.allOnes p ++ 0#n) = a ++ 0#n := by
  rw [BitVec.and_append, BitVec.and_allOnes, BitVec.and_zero]

/-- A word that agrees with such a row is the row's fixed bits followed by the word's operand. -/
theorem append_low_of_highMask {p n : Nat} {w : BitVec (p + n)} {a : BitVec p}
    (h : w &&& (BitVec.allOnes p ++ 0#n) = a ++ 0#n) : a ++ w.extractLsb' 0 n = w := by
  have hw : w.extractLsb' n p ++ w.extractLsb' 0 n = w := by
    rw [BitVec.extractLsb'_append_extractLsb'_eq_extractLsb' (Nat.zero_add n).symm, BitVec.extractLsb'_eq_self]
  rw [← hw, append_and_highMask, BitVec.append_left_inj] at h
  rw [← h, hw]

theorem low_append_of_fits {p width v : Nat} (h : fitsField width v = true) (a : BitVec p) :
    ((a ++ BitVec.ofNat width v).extractLsb' 0 width).toNat = v := by
  rw [BitVec.extractLsb'_append_eq_right, toNat_ofNat_of_fits h]

/-! ### Words of format C (RDBIT, WRBIT; R71) -/

/-- The mask of a format C row clears the coordinate, keeps OP and the zeros, and masks V with `m`. -/
theorem formatC_and_mask (op : BitVec 4) (x y : BitVec 3) (z : BitVec 8) (v m : BitVec 1) :
    (op ++ x ++ y ++ z ++ 0#13 ++ v) &&& (BitVec.allOnes 4 ++ 0#3 ++ 0#3 ++ 0#8 ++ BitVec.allOnes 13 ++ m) =
      op ++ 0#3 ++ 0#3 ++ 0#8 ++ 0#13 ++ (v &&& m) := by
  simp only [BitVec.and_append, BitVec.and_allOnes, BitVec.and_zero]

/-- A word with zeros between Z and V is the format C word of its own fields. -/
theorem encodeC_fields {w : CmdWord} {op : BitVec 4} {v : Bool} (hop : w.extractLsb' 28 4 = op)
    (hzero : w.extractLsb' 1 13 = 0#13) (hv : w.extractLsb' 0 1 = BitVec.ofBool v) :
    encodeC op (field w 25 3) (field w 22 3) (field w 14 8) v = w := by
  simp only [encodeC, ofNat_field, ← hop, ← hzero, ← hv, BitVec.extractLsb'_append_extractLsb'_eq_extractLsb']
  exact BitVec.extractLsb'_eq_self

/-- The fields of a format C word hold a coordinate that fits them, and bit 0 holds V. -/
theorem fields_encodeC {x y z : Nat} (op : BitVec 4) (hx : fitsField 3 x = true) (hy : fitsField 3 y = true)
    (hz : fitsField 8 z = true) (v : Bool) :
    field (encodeC op x y z v) 25 3 = x ∧ field (encodeC op x y z v) 22 3 = y ∧
      field (encodeC op x y z v) 14 8 = z ∧ (encodeC op x y z v).getLsbD 0 = v := by
  simp (disch := omega) only [field, encodeC, BitVec.extractLsb'_append_eq_of_le,
    BitVec.extractLsb'_append_eq_of_add_le, Nat.reduceSub, BitVec.extractLsb'_eq_self, toNat_ofNat_of_fits, true_and]
  exact BitVec.getLsbD_append.trans (BitVec.getLsbD_ofBool v 0)

/-! ### The encoder against the rows (R71 to R73) -/

/-- The word of a command agrees with the command's row. -/
theorem encode_masked (i : Instr) : encode i &&& i.row.mask = i.row.pattern := by
  cases i with
  | iota ir => exact append_and_highMask (0x6#4 ++ 0#20) (BitVec.ofNat 8 ir)
  | keccak nr => exact append_and_highMask (0x7#4 ++ 0#22) (BitVec.ofNat 6 nr)
  | rcbit t => exact append_and_highMask (0xD#4 ++ 0#12) (BitVec.ofNat 16 t)
  | rdbit x y z => exact formatC_and_mask 0xB#4 (.ofNat 3 x) (.ofNat 3 y) (.ofNat 8 z) 0#1 1#1
  | wrbit x y z v =>
    have h := formatC_and_mask 0xC#4 (.ofNat 3 x) (.ofNat 3 y) (.ofNat 8 z) (.ofBool v) 0#1
    rwa [BitVec.and_zero] at h
  | _ => rfl

/-- The fields of the word of a well-formed command hold its operands. -/
theorem readFrom_encode {i : Instr} (h : i.wellFormed = true) : i.readFrom (encode i) = i := by
  cases i with
  | iota ir => exact congrArg Instr.iota (low_append_of_fits h _)
  | keccak nr => exact congrArg Instr.keccak (low_append_of_fits h _)
  | rcbit t => exact congrArg Instr.rcbit (low_append_of_fits h _)
  | rdbit x y z =>
    simp only [Instr.wellFormed, Bool.and_eq_true] at h
    obtain ⟨⟨hx, hy⟩, hz⟩ := h
    obtain ⟨ex, ey, ez, -⟩ := fields_encodeC 0xB#4 hx hy hz false
    simp only [Instr.readFrom, encode, ex, ey, ez]
  | wrbit x y z v =>
    simp only [Instr.wellFormed, Bool.and_eq_true] at h
    obtain ⟨⟨hx, hy⟩, hz⟩ := h
    obtain ⟨ex, ey, ez, ev⟩ := fields_encodeC 0xC#4 hx hy hz v
    simp only [Instr.readFrom, encode, ex, ey, ez, ev]
  | _ => rfl

/-- A word that agrees with the row of a command is the word of the command read from it. -/
theorem encode_readFrom {w : CmdWord} {i : Instr} (h : w &&& i.row.mask = i.row.pattern) :
    encode (i.readFrom w) = w := by
  cases i with
  | iota ir =>
    rw [Instr.readFrom, encode, ofNat_field]
    exact append_low_of_highMask (p := 24) (n := 8) h
  | keccak nr =>
    rw [Instr.readFrom, encode, ofNat_field]
    exact append_low_of_highMask (p := 26) (n := 6) h
  | rcbit t =>
    rw [Instr.readFrom, encode, ofNat_field]
    exact append_low_of_highMask (p := 16) (n := 16) h
  | rdbit x y z =>
    change w &&& 0xF0003FFF#32 = 0xB0000000#32 at h
    exact encodeC_fields (extract_of_masked h 28 4 rfl) (extract_of_masked h 1 13 rfl) (extract_of_masked h 0 1 rfl)
  | wrbit x y z v =>
    change w &&& 0xF0003FFE#32 = 0xC0000000#32 at h
    exact encodeC_fields (extract_of_masked h 28 4 rfl) (extract_of_masked h 1 13 rfl) (ofBool_getLsbD_zero w).symm
  | _ => exact h.symm.trans BitVec.and_allOnes

/-- The word of a command agrees with its row, and the fields of a well-formed command's word hold its operands. -/
theorem decode_encode {i : Instr} (h : i.wellFormed = true) : decode (encode i) = .ok i :=
  decode_eq_ok_iff.mpr ⟨encode_masked i, readFrom_encode h⟩

end Sys2Proof

namespace Sys2Proof.Machine

open Sys2Proof.Config

/-! ### What the host issues (R71, R78, R79) -/

theorem issueAll_of_wellFormed {l : Build} {is : List Instr} (h : is.all Instr.wellFormed = true) :
    issueAll l is = some (is.map (issue l)) := if_pos h

theorem issueAll_of_not_wellFormed {l : Build} {is : List Instr} (h : is.all Instr.wellFormed = false) :
    issueAll l is = none := if_neg (ne_true_of_eq_false h)

/-- Of the commands of a round only IOTA has an operand to check. -/
theorem roundInstrs_wellFormed (ir : Nat) : (roundInstrs ir).all Instr.wellFormed = decide (ir < 256) := by
  simp [roundInstrs, Instr.wellFormed, fitsField]

/-- The full round count of every build, 24 at most, fits the NR field. -/
theorem keccak_fullRounds_wellFormed (l : Build) : (Instr.keccak (fullRounds l)).wellFormed = true := by
  have hl := l.isLt
  exact decide_eq_true (show 12 + 2 * l.val < 64 by omega)

end Sys2Proof.Machine

/-! ### The obligations -/

namespace Sys2Proof.Proofs.Encoding

open Sys2Proof.Machine Sys2Proof.Config

/-- Settles O1 (`decode_encode`). -/
theorem decodeOfEncode : Obligations.DecodeOfEncode := fun _ => decode_encode

/-- Settles O2: the word agrees with the command's row and its fields hold the operands (`decode_eq_ok_iff`), so the
operands fit, and the row's bits with those fields make up the word (`encode_readFrom`). -/
theorem encodeOfDecode : Obligations.EncodeOfDecode := by
  intro w i hdecode
  obtain ⟨hmask, hread⟩ := decode_eq_ok_iff.mp hdecode
  rw [← hread]
  exact ⟨i.readFrom_wellFormed w, encode_readFrom hmask⟩

/-- Settles O3: rows and commands correspond, and two rows that match one word have its OP field, which determines the
row. -/
theorem wordSelectsCommandByMask : Obligations.WordSelectsCommandByMask := by
  refine ⟨fun w => ⟨?_, ?_⟩, fun w r hr q hq hwr hwq => row_eq_of_op_eq hr hq ?_⟩
  · rintro ⟨i, hdecode⟩
    obtain ⟨hmask, -⟩ := decode_eq_ok_iff.mp hdecode
    exact ⟨i.row, i.row_mem, hmask⟩
  · rintro ⟨r, hr, hmask⟩
    obtain ⟨i, rfl⟩ := exists_row_eq hr
    exact ⟨i.readFrom w, decode_of_masked hmask⟩
  · rw [← extract_of_masked hwr 28 4 (mask_fixes_op hr), extract_of_masked hwq 28 4 (mask_fixes_op hq)]

/-- Settles O5: the mask of RDBIT fixes bit 0 to zero, and a step that serves a refused word raises IllegalCommand
(`step_illegal`). -/
theorem illegalWordRaisesIllegalCommand : Obligations.IllegalWordRaisesIllegalCommand := by
  refine ⟨fun w => decode_of_reservedOp, fun w hop hbit => ?_, fun s w v rest e hinbox hdecode => ?_⟩
  · rw [decode_of_op (i := .rdbit 0 0 0) hop]
    refine checkFixed_of_ne (fun hmask => ?_) _
    have hzero := congrArg (·.getLsbD 0) hmask
    rw [BitVec.getLsbD_and, hbit] at hzero
    exact absurd hzero (by decide)
  · exact ⟨_, step_illegal hinbox hdecode, State.raise_failedWith _ .illegalCommand⟩

/-- Settles O4: the decoder computes each of the words. -/
theorem workedEncodingsDecode : Obligations.WorkedEncodingsDecode := by
  unfold Obligations.WorkedEncodingsDecode
  decide

/-- Settles O59: the check of ROUND is that of its IOTA, the check of PERMUTE always passes, and the words issued decode
to the commands they were made from (`decode_encode`). -/
theorem roundExpandsWhenIndexFits : Obligations.RoundExpandsWhenIndexFits := by
  refine fun l => ⟨fun ir hir => ?_, fun ir hir => ?_, ?_⟩
  · exact ⟨encode (.iota ir), decode_encode (decide_eq_true hir),
      issueAll_of_wellFormed ((roundInstrs_wellFormed ir).trans (decide_eq_true hir))⟩
  · exact issueAll_of_not_wellFormed ((roundInstrs_wellFormed ir).trans (decide_eq_false (Nat.not_lt.mpr hir)))
  · have hwf := keccak_fullRounds_wellFormed l
    exact ⟨encode (.keccak (fullRounds l)), decode_encode hwf, issueAll_of_wellFormed (by simp [hwf])⟩

end Sys2Proof.Proofs.Encoding
end

section
/-! PROOFS. The statements of 40_construction.md: what LOAD makes of DIN, and a loaded message read back. -/

namespace Sys2Proof.Machine

open Sys2Proof.Config

/-! ### LOAD and GETSTATE (40_construction.md R90, 44_extraction.md R150) -/

theorem exec_load (s : State) : exec .load s = .next (s.loadDin.respond .none) := rfl

theorem exec_getstate (s : State) : exec .getstate s = .next (s.respond (.state s.b (s.memRead 0 s.b))) := rfl

/-- LOAD writes buffers and SEL, nothing else, and `respond` only STATUS and the response. -/
theorem State.loadDin_respond_portsKept (s : State) (d : Data) : s.PortsKept (s.loadDin.respond d) :=
  ⟨_, _, _, _, _, rfl⟩

/-- Reading the whole state gives the active bits. -/
theorem State.getLsbD_memRead_all (s : State) (i : Nat) : (s.memRead 0 s.b).getLsbD i = s.act i := by
  rw [getLsbD_memRead, Nat.zero_add]
  obtain hi | hi := lt_or_ge i s.b
  · rw [decide_eq_true hi, Bool.true_and]
  · rw [s.act_of_le hi, Bool.and_false]

/-- GETSTATE right after LOAD reads DIN. -/
theorem State.getLsbD_memRead_loadDin (s : State) (d : Data) (i : Nat) :
    ((s.loadDin.respond d).memRead 0 s.b).getLsbD i = s.din.getLsbD i :=
  (s.loadDin.respond d).getLsbD_memRead_all i

theorem Container.bitOrZero_eq_ite (m : Container) (i : Nat) :
    m.bitOrZero i = if i < m.length then m.bit i else false := by
  unfold bitOrZero
  split
  next hi => rw [decide_eq_true hi, Bool.true_and]
  next hi => rw [decide_eq_false hi, Bool.false_and]

end Sys2Proof.Machine

/-! ### The obligations -/

namespace Sys2Proof.Proofs.Construction

open Sys2Proof.Machine Sys2Proof.Config

/-- Settles O18: GETSTATE after LOAD reads DIN (`getLsbD_memRead_loadDin`), and DIN holds the message's bits, then zeros
(`getLsbD_dinOf`). -/
theorem loadedMessageComesBack : Obligations.LoadedMessageComesBack := by
  intro s m
  refine ⟨_, _, _, exec_load _, exec_getstate _, rfl, fun i hi => ?_⟩
  calc _ = (dinOf s.l m).getLsbD i := State.getLsbD_memRead_loadDin { s with din := dinOf s.l m } .none i
    _ = m.bitOrZero i := getLsbD_dinOf s.l m hi
    _ = _ := m.bitOrZero_eq_ite i

/-- Settles O17: what LOAD writes (`loadDin`) and that its `respond` reports success. -/
theorem loadConstructsFromDin : Obligations.LoadConstructsFromDin := fun s =>
  ⟨_, exec_load s, s.loadDin_respond_portsKept .none, s.respond_succeeded s.loadDin .none rfl, rfl, fun _ _ => rfl,
    s.loadDin_scr⟩

end Sys2Proof.Proofs.Construction
end

section
/-! PROOFS. The statements of 41_round_phases.md: the five phases as commands, the orbit and the offsets of ρ, the flips
of ι, and the round-constant register. -/

namespace Sys2Proof.Machine

open Sys2Proof.Config

/-! ### A phase issued as a command (00_scope.md R12) -/

theorem exec_theta (s : State) : exec .theta s = .next ((s.phase (thetaBit s.w s.cube)).respond .none) := rfl

theorem exec_rho (s : State) : exec .rho s = .next ((s.phase (rhoBit s.w s.cube)).respond .none) := rfl

theorem exec_pi (s : State) : exec .pi s = .next ((s.phase (piBit s.cube)).respond .none) := rfl

theorem exec_chi (s : State) : exec .chi s = .next ((s.phase (chiBit s.cube)).respond .none) := rfl

theorem exec_iota (ir : Nat) (s : State) :
    exec (.iota ir) s = .next ((s.phase (iotaBit s.l ir s.cube)).respond .none) := rfl

theorem exec_rcbit (t : Nat) (s : State) : exec (.rcbit t) s = .next (s.respond (.bit (rc t))) := rfl

/-- What every phase command does besides computing its cube, for a claim `P` about the state it leaves. -/
theorem exec_phase_completes {i : Instr} {s : State} {f : Nat → Nat → Nat → Bool} {P : State → Prop}
    (hexec : exec i s = .next ((s.phase f).respond .none)) (hP : P ((s.phase f).respond .none)) :
    ∃ t, exec i s = .next t ∧ s.PortsKept t ∧ s.Succeeded t .none ∧ t.sel = (!s.sel) ∧
      (∀ i, t.scr i = s.act i) ∧ P t :=
  ⟨_, hexec, ⟨_, _, _, _, _, rfl⟩, s.respond_succeeded (s.phase f) .none rfl, s.phase_sel f, s.phase_scr f, hP⟩

/-- The cube a phase command leaves. -/
theorem State.phase_respond_cube (s : State) (f : Nat → Nat → Nat → Bool) (d : Data) {x y z : Nat} (hx : x < 5)
    (hy : y < 5) (hz : z < laneDepth s.l) : ((s.phase f).respond d).cube x y z = f x y z :=
  s.phase_cube f (inCube_iff.mpr ⟨hx, hy, hz⟩)

/-! ### Modular steps (00_scope.md R9) -/

theorem subMod_one (a : Nat) {n : Nat} (hn : 0 < n) : subMod a 1 n = (a + n - 1) % n := by
  obtain rfl | hlt : n = 1 ∨ 1 < n := by omega
  · rw [Nat.mod_one, subMod, Nat.mod_one]
  · rw [subMod, Nat.mod_eq_of_lt hlt, Nat.add_sub_assoc hn]

theorem subMod_zero {a n : Nat} (ha : a < n) : subMod a 0 n = a := by
  rw [subMod, Nat.zero_mod, Nat.sub_zero, Nat.add_mod_right, Nat.mod_eq_of_lt ha]

theorem subMod_mod (a b n : Nat) : subMod a (b % n) n = subMod a b n := by
  rw [subMod, subMod, Nat.mod_mod]

/-! ### θ (R100) -/

theorem thetaBit_eq {w : Nat} (hw : 0 < w) (a : Nat → Nat → Nat → Bool) (x y z : Nat) :
    thetaBit w a x y z =
      (a x y z ^^ columnParity a ((x + 4) % 5) z ^^ columnParity a ((x + 1) % 5) ((z + w - 1) % w)) := by
  have hx : subMod x 1 5 = (x + 4) % 5 := rfl
  rw [thetaBit, thetaD, hx, subMod_one z hw, Bool.xor_assoc]

/-! ### The orbit and the offsets of ρ (R101 to R103) -/

theorem orbit_succ (t : Nat) : orbit (t + 1) = orbitNext (orbit t) := rfl

theorem orbit_lt (t : Nat) : (orbit t).1 < 5 ∧ (orbit t).2 < 5 := by
  induction t with
  | zero => decide
  | succ t ih => exact ⟨ih.2, Nat.mod_lt _ (by decide)⟩

theorem orbit_ne_origin : ∀ t < 24, orbit t ≠ (0, 0) := by decide

/-- One period of the orbit has no repetition. -/
theorem orbit_injective_below_period : ∀ t < 24, ∀ u < 24, orbit t = orbit u → t = u := by decide

theorem orbit_surjective_onto_other_lanes : ∀ x < 5, ∀ y < 5, (x, y) ≠ (0, 0) → ∃ t < 24, orbit t = (x, y) := by
  decide

/-- A walk along the orbit that does not meet the lane. -/
theorem rhoWalk_of_not_met (w : Nat) (lane : Nat × Nat) (n t : Nat) (h : ∀ u < t + n, orbit u ≠ lane) :
    rhoWalk w lane n t (orbit t) = 0 := by
  induction n generalizing t with
  | zero => rfl
  | succ n ih =>
    rw [rhoWalk, if_neg (h t (by omega)), ← orbit_succ]
    exact ih (t + 1) fun u hu => h u (by omega)

/-- A walk along the orbit that meets lane `orbit k` at index `k` and not before. -/
theorem rhoWalk_orbit (w : Nat) {k : Nat} (hfirst : ∀ u < k, orbit u ≠ orbit k) (n t : Nat) (htk : t ≤ k)
    (hkn : k < t + n) : rhoWalk w (orbit k) n t (orbit t) = triangular k % w := by
  induction n generalizing t with
  | zero => omega
  | succ n ih =>
    obtain rfl | hlt := Nat.eq_or_lt_of_le htk
    · rw [rhoWalk, if_pos rfl]
    · rw [rhoWalk, if_neg (hfirst t hlt), ← orbit_succ]
      exact ih (t + 1) hlt (by omega)

/-- The walks of two lane depths, one dividing the other, agree modulo the smaller one. -/
theorem rhoWalk_mod_of_dvd {w v : Nat} (hwv : w ∣ v) (lane : Nat × Nat) (n t : Nat) (p : Nat × Nat) :
    rhoWalk w lane n t p = rhoWalk v lane n t p % w := by
  induction n generalizing t p with
  | zero => exact (Nat.zero_mod w).symm
  | succ n ih =>
    unfold rhoWalk
    split
    next => exact (Nat.mod_mod_of_dvd _ hwv).symm
    next => exact ih (t + 1) (orbitNext p)

theorem rhoOffset_orbit (w : Nat) {k : Nat} (hk : k < 23) :
    rhoOffset w (orbit k).1 (orbit k).2 = triangular k % w :=
  rhoWalk_orbit w (fun u hu h => absurd (orbit_injective_below_period u (by omega) k (by omega) h) (by omega))
    23 0 (by omega) (by omega)

theorem rhoOffset_origin (w : Nat) : rhoOffset w 0 0 = 0 :=
  rhoWalk_of_not_met w (0, 0) 23 0 fun u hu => orbit_ne_origin u (by omega)

/-- Lane (1,1) is orbit(23), the one after the 23 that ρ rotates (decision D14). -/
theorem rhoOffset_one_one (w : Nat) : rhoOffset w 1 1 = 0 :=
  rhoWalk_of_not_met w (orbit 23) 23 0 fun u hu h =>
    absurd (orbit_injective_below_period u (by omega) 23 (by omega) h) (by omega)

theorem laneDepth_dvd_largest (l : Build) : laneDepth l ∣ 64 := Nat.pow_dvd_pow 2 (show l.val ≤ 6 by omega)

/-- The bit that ρ puts `b` positions on, in a lane of offset `b` (R104, decision D19). -/
theorem rhoBit_of_offset {w : Nat} (a : Nat → Nat → Nat → Bool) {x y b z : Nat} (hb : rhoOffset w x y = b % w)
    (hz : z < w) : rhoBit w a x y ((z + b) % w) = a x y z := by
  rw [rhoBit, hb, subMod_mod, subMod_add_mod z b hz]

theorem rhoBit_of_zero_offset {w : Nat} (a : Nat → Nat → Nat → Bool) {x y z : Nat} (h0 : rhoOffset w x y = 0)
    (hz : z < w) : rhoBit w a x y z = a x y z := by
  rw [rhoBit, h0, subMod_zero hz]

/-! ### π and χ (R106, R107) -/

/-- The orbit step undoes the lane map that π reads through: 2 is the inverse of 3 mod 5 (R106). -/
theorem piBit_orbit_step (a : Nat → Nat → Nat → Bool) {x : Nat} (y z : Nat) (hx : x < 5) :
    piBit a y ((2 * x + 3 * y) % 5) z = a x y z := by
  have hback : (y + 3 * ((2 * x + 3 * y) % 5)) % 5 = x := by omega
  rw [piBit, hback]

theorem chiBit_eq (a : Nat → Nat → Nat → Bool) (x y z : Nat) :
    chiBit a x y z = (a x y z ^^ (!a ((x + 1) % 5) y z && a ((x + 2) % 5) y z)) := by
  rw [chiBit, Bool.xor_true]

/-! ### The flips of ι (R108) -/

theorem two_pow_sub_one_inj {i j : Nat} : 2 ^ i - 1 = 2 ^ j - 1 ↔ i = j :=
  ⟨fun h => Nat.pow_right_injective le_rfl (Nat.sub_one_cancel (Nat.two_pow_pos i) (Nat.two_pow_pos j) h),
    fun h => by rw [h]⟩

theorem iotaFlip_eq_true_iff {l : Build} {ir z : Nat} :
    iotaFlip l ir z = true ↔ ∃ j < l.val, z = 2 ^ j - 1 ∧ rc (j + 7 * ir) = true := by
  simp [iotaFlip, iotaFlipOf, iotaBits]

/-- At a candidate position the flip is its round-constant bit: the positions of different `j` differ. -/
theorem iotaFlip_candidate {l : Build} {j : Nat} (ir : Nat) (hj : j < l.val) :
    iotaFlip l ir (2 ^ j - 1) = rc (j + 7 * ir) := by
  rw [Bool.eq_iff_iff, iotaFlip_eq_true_iff]
  constructor
  · rintro ⟨i, -, hpos, hrc⟩
    rwa [two_pow_sub_one_inj.mp hpos]
  · exact fun hrc => ⟨j, hj, rfl, hrc⟩

theorem iotaFlip_no_candidate {l : Build} (ir : Nat) {z : Nat} (h : ∀ j < l.val, z ≠ 2 ^ j - 1) :
    iotaFlip l ir z = false := by
  rw [Bool.eq_false_iff, ne_eq, iotaFlip_eq_true_iff]
  rintro ⟨j, hj, hz, -⟩
  exact h j hj hz

theorem candidate_lt_laneDepth {l : Build} {j : Nat} (hj : j < l.val) : 2 ^ j - 1 < laneDepth l :=
  (Nat.sub_le _ _).trans_lt (Nat.pow_lt_pow_right (by decide) hj)

theorem iotaBit_other_lane (l : Build) (ir : Nat) (a : Nat → Nat → Nat → Bool) {x y : Nat} (z : Nat)
    (h : ¬ (x = 0 ∧ y = 0)) : iotaBit l ir a x y z = a x y z := by
  have hlane : (x == 0 && y == 0) = false := by simpa using h
  rw [iotaBit, hlane, Bool.false_and, Bool.xor_false]

theorem iotaBit_origin (l : Build) (ir : Nat) (a : Nat → Nat → Nat → Bool) (z : Nat) :
    iotaBit l ir a 0 0 z = (a 0 0 z ^^ iotaFlip l ir z) := rfl

/-! ### The round-constant register (R110) -/

theorem lfsrAfter_period : lfsrAfter 255 = lfsrSeed := by decide +kernel

theorem lfsrAfter_add_period (k : Nat) : lfsrAfter (k + 255) = lfsrAfter k := by
  induction k with
  | zero => exact lfsrAfter_period
  | succ k ih => rw [Nat.add_right_comm, lfsrAfter, ih, lfsrAfter]

theorem lfsrAfter_mod (t : Nat) : lfsrAfter (t % 255) = lfsrAfter t :=
  Function.Periodic.map_mod_nat lfsrAfter_add_period t

theorem rc_eq_lfsrAfter (t : Nat) : rc t = (lfsrAfter t).getLsbD 0 := by rw [rc, lfsrAfter_mod]

end Sys2Proof.Machine

/-! ### The obligations -/

namespace Sys2Proof.Proofs.RoundPhases

open Sys2Proof.Machine Sys2Proof.Config

/-- Settles O20: THETA is the phase of `thetaBit`, which is R100's formula with the two wraps written out
(`thetaBit_eq`). -/
theorem thetaMixesColumnParities : Obligations.ThetaMixesColumnParities := by
  refine ⟨by decide, fun s => exec_phase_completes (exec_theta s) fun x hx y hy z hz => ?_⟩
  rw [s.phase_respond_cube _ _ hx hy hz]
  exact thetaBit_eq (laneDepth_pos s.l) s.cube x y z

/-- Settles O22: each of the first 23 lanes of the orbit has its triangular number as offset (`rhoOffset_orbit`), the
other two lanes have none. -/
theorem rhoRotatesLanes : Obligations.RhoRotatesLanes := by
  refine ⟨by decide, fun s => exec_phase_completes (exec_rho s) ⟨fun k hk z hz => ?_, fun z hz => ⟨?_, ?_⟩⟩⟩
  · obtain ⟨hx, hy⟩ := orbit_lt k
    rw [s.phase_respond_cube _ _ hx hy (Nat.mod_lt _ (laneDepth_pos s.l))]
    exact rhoBit_of_offset s.cube (rhoOffset_orbit s.w hk) hz
  · rw [s.phase_respond_cube _ _ (by decide) (by decide) hz]
    exact rhoBit_of_zero_offset s.cube (rhoOffset_origin s.w) hz
  · rw [s.phase_respond_cube _ _ (by decide) (by decide) hz]
    exact rhoBit_of_zero_offset s.cube (rhoOffset_one_one s.w) hz

/-- Settles O24: the lane PI reads at the image of a lane under the orbit step is that lane (`piBit_orbit_step`). -/
theorem piMovesLanes : Obligations.PiMovesLanes := by
  refine ⟨by decide, fun s => exec_phase_completes (exec_pi s)
    ⟨fun x hx y hy z hz => ?_, fun x hx y hy z hz => ?_⟩⟩
  · exact s.phase_respond_cube _ _ hx hy hz
  · rw [s.phase_respond_cube _ _ hy (Nat.mod_lt _ (by decide)) hz]
    exact piBit_orbit_step s.cube y z hx

/-- Settles O25: CHI is the phase of `chiBit`, in which XOR with 1 is NOT. -/
theorem chiMixesRows : Obligations.ChiMixesRows := by
  refine ⟨by decide, fun s => exec_phase_completes (exec_chi s) fun x hx y hy z hz => ?_⟩
  rw [s.phase_respond_cube _ _ hx hy hz, chiBit_eq]

/-- Settles O26: lane (0,0) is XORed with the flips of ι, which are the round-constant bits at the candidate positions
and 0 elsewhere. -/
theorem iotaInjectsRoundConstant : Obligations.IotaInjectsRoundConstant := by
  refine fun s ir => exec_phase_completes (exec_iota ir s)
    ⟨fun x hx y hy z hz hlane => ?_, fun j hj => ?_, fun z hz hpos => ?_⟩
  · rw [s.phase_respond_cube _ _ hx hy hz, iotaBit_other_lane s.l ir s.cube z hlane]
  · rw [s.phase_respond_cube _ _ (by decide) (by decide) (candidate_lt_laneDepth hj), iotaBit_origin,
      iotaFlip_candidate ir hj]
  · rw [s.phase_respond_cube _ _ (by decide) (by decide) hz, iotaBit_origin, iotaFlip_no_candidate ir hpos,
      Bool.xor_false]

/-- Settles O28: 255 steps from the seed lead back to it, so the register is periodic and rc needs no reduction. -/
theorem registerHasPeriod255 : Obligations.RegisterHasPeriod255 :=
  ⟨rfl, lfsrAfter_add_period, fun t => ⟨rc_eq_lfsrAfter t, rc_mod t⟩⟩

/-- Settles O21, from the three facts about one period of the orbit. -/
theorem orbitVisitsEveryOtherLane : Obligations.OrbitVisitsEveryOtherLane :=
  ⟨rfl, fun _ => rfl, fun t ht => ⟨orbit_ne_origin t ht, orbit_injective_below_period t ht⟩,
    orbit_surjective_onto_other_lanes⟩

/-- Settles O23: the table of the largest build is evaluated, and every other W divides 64 (`rhoWalk_mod_of_dvd`). -/
theorem rhoOffsetTable : Obligations.RhoOffsetTable :=
  ⟨by decide, fun l x _ y _ => rhoWalk_mod_of_dvd (laneDepth_dvd_largest l) (x, y) 23 0 (orbit 0)⟩

/-- Settles O27, by evaluating the 24 masks. -/
theorem iotaMaskTable : Obligations.IotaMaskTable := by
  unfold Obligations.IotaMaskTable
  decide +kernel

/-- Settles O29, by evaluating one period of the register. -/
theorem roundConstantSequence : Obligations.RoundConstantSequence := by
  unfold Obligations.RoundConstantSequence
  decide +kernel

/-- Settles O30: RCBIT responds and writes nothing else. -/
theorem rcbitRespondsRoundConstant : Obligations.RcbitRespondsRoundConstant := fun s n =>
  ⟨_, exec_rcbit n s, ⟨_, _, rfl⟩, s.respond_succeeded s (.bit (rc n)) rfl⟩

end Sys2Proof.Proofs.RoundPhases
end

section
/-! PROOFS. The statements of 42_round_sequencer.md: KECCAK against the phase commands of its rounds, its composition, what
its cube depends on, and that the phases and the rounds lose nothing. -/

namespace Sys2Proof.Machine

open Sys2Proof.Config

/-! ### The phase commands of rounds, issued one by one (42_round_sequencer.md R130) -/

theorem execAll_append {is js : List Instr} {s t : State} (h : execAll is s = .next t) :
    execAll (is ++ js) s = execAll js t := by
  induction is generalizing s with
  | nil =>
    obtain rfl := Host.Outcome.next.inj h
    rfl
  | cons i is ih =>
    obtain ⟨u, hu⟩ : ∃ u, exec i s = .next u := by
      obtain ⟨_, _, _, _, hdone⟩ | hrange := exec_cases i s
      · exact ⟨_, hdone⟩
      · exact ⟨_, hrange⟩
    simp only [List.cons_append, execAll, hu] at h ⊢
    exact ih h

/-- The five commands of a round leave the round's buffers and SEL, and the response of the last one. -/
theorem execAll_roundInstrs (s : State) (ir : Nat) :
    execAll (roundInstrs ir) s = .next ((s.round ir).respond .none) :=
  congrArg Host.Outcome.next (by
    simp only [State.respond_rhoPhase, State.respond_piPhase, State.respond_chiPhase, State.respond_iotaPhase,
      State.respond_respond, State.round])

theorem roundsInstrs_succ (ir n : Nat) : roundsInstrs ir (n + 1) = roundInstrs ir ++ roundsInstrs (ir + 1) n := rfl

/-- The commands of `n` rounds leave what the rounds of the sequencer leave, but for STATUS and the response: once those
are written anew, both ways end in one state. -/
theorem execAll_roundsInstrs (s : State) (ir n : Nat) :
    ∃ u, execAll (roundsInstrs ir n) s = .next u ∧ u.respond .none = (s.runRounds ir n).respond .none := by
  induction n generalizing s ir with
  | zero => exact ⟨s, rfl, rfl⟩
  | succ n ih =>
    obtain ⟨u, hexec, hu⟩ := ih ((s.round ir).respond .none) (ir + 1)
    refine ⟨u, ?_, ?_⟩
    · rw [roundsInstrs_succ, execAll_append (execAll_roundInstrs s ir), hexec]
    · rw [hu, State.respond_runRounds, State.respond_respond, State.runRounds]

theorem State.runRounds_respond_portsKept (s : State) (ir n : Nat) (d : Data) :
    s.PortsKept ((s.runRounds ir n).respond d) := by
  obtain ⟨b0, b1, q, h⟩ := s.runRounds_eq ir n
  exact ⟨b0, b1, q, _, _, by rw [h]; rfl⟩

/-! ### Equal cubes (10_state.md R25, 00_scope.md R10) -/

/-- A value for every coordinate; a phase computes one from another. -/
abbrev CubeFn := Nat → Nat → Nat → Bool

/-- Two functions agree at every coordinate of the cube of build `l`. -/
def AgreeInCube (l : Build) (f g : CubeFn) : Prop := ∀ x < 5, ∀ y < 5, ∀ z < laneDepth l, f x y z = g x y z

/-- The bit function of a phase loses nothing: cubes with the same image agree. -/
def LosesNothing (F : Build → CubeFn → CubeFn) : Prop :=
  ∀ l a b, AgreeInCube l (F l a) (F l b) → AgreeInCube l a b

theorem State.phase_act (s : State) (f : CubeFn) : (s.phase f).act = (cubeBits s.l f).getLsbD :=
  congrArg BitVec.getLsbD (s.phase_actBuf f)

section
variable {s t : State} (hl : s.l = t.l)
include hl

theorem State.cube_eq_of_act_eq (h : s.act = t.act) : s.cube = t.cube := by
  funext x y z
  rw [cube, cube, h, w, w, hl]

theorem State.act_eq_of_agreeInCube (h : AgreeInCube s.l s.cube t.cube) : s.act = t.act := by
  funext i
  by_cases hi : i < stateBits s.l
  · have hbit := h _ (xOf_lt (laneDepth s.l) i) _ (yOf_lt hi) _ (zOf_lt (laneDepth_pos s.l) i)
    simpa only [cube, w, ← hl, off_xyzOf] using hbit
  · rw [s.act_of_le (by omega), t.act_of_le (hl ▸ by omega)]

/-- Phases that end with the same cube computed the same bits. -/
theorem State.agreeInCube_of_phase_act_eq {f g : CubeFn} (h : (s.phase f).act = (t.phase g).act) :
    AgreeInCube s.l f g := fun x hx y hy z hz => by
  have hz' : z < t.w := by rwa [w, ← hl]
  rw [← s.phase_cube f (inCube_iff.mpr ⟨hx, hy, hz⟩), ← t.phase_cube g (inCube_iff.mpr ⟨hx, hy, hz'⟩),
    cube_eq_of_act_eq (s := s.phase f) (t := t.phase g) hl h]

/-- A phase whose bit function loses nothing makes equal cubes from equal cubes only. -/
theorem State.phase_act_eq_iff {F : Build → CubeFn → CubeFn} (hF : LosesNothing F) :
    (s.phase (F s.l s.cube)).act = (t.phase (F t.l t.cube)).act ↔ s.act = t.act := by
  constructor
  · intro h
    have hagree := agreeInCube_of_phase_act_eq hl h
    rw [← hl] at hagree
    exact act_eq_of_agreeInCube hl (hF _ _ _ hagree)
  · intro h
    rw [phase_act, phase_act, cube_eq_of_act_eq hl h, hl]

/-- A command that makes one such phase ends with equal cubes exactly where it starts from equal cubes. -/
theorem exec_phase_act_eq_iff {F : Build → CubeFn → CubeFn} (hF : LosesNothing F) {i : Instr} {s' t' : State}
    (hexec : ∀ s, exec i s = .next ((s.phase (F s.l s.cube)).respond .none)) (hs : exec i s = .next s')
    (ht : exec i t = .next t') : s'.act = t'.act ↔ s.act = t.act := by
  obtain rfl := eq_of_next (hexec s) hs
  obtain rfl := eq_of_next (hexec t) ht
  exact State.phase_act_eq_iff hl hF

end

/-! ### ρ, π, χ and ι lose nothing (R135) -/

theorem rhoBit_add_offset {w : Nat} (a : CubeFn) {x y z : Nat} (hz : z < w) :
    rhoBit w a x y ((z + rhoOffset w x y) % w) = a x y z := by
  rw [rhoBit, subMod_add_mod z _ hz]

/-- Every bit stands, after ρ, at its place rotated by the offset of its lane. -/
theorem rhoBit_losesNothing : LosesNothing fun l => rhoBit (laneDepth l) := by
  intro l a b h x hx y hy z hz
  have hrot := h x hx y hy _ (Nat.mod_lt (z + rhoOffset (laneDepth l) x y) (laneDepth_pos l))
  simpa only [rhoBit_add_offset _ hz] using hrot

/-- Every lane stands, after π, at its orbit step. -/
theorem piBit_losesNothing : LosesNothing fun _ => piBit := by
  intro l a b h x hx y hy z hz
  have hstep := h y hy ((2 * x + 3 * y) % 5) (Nat.mod_lt _ (by decide)) z hz
  simpa only [piBit_orbit_step _ y z hx] using hstep

/-- The inverse of χ on a row of five. -/
def chiInvBit (c : CubeFn) (x y z : Nat) : Bool :=
  c x y z ^^ (!c ((x + 1) % 5) y z &&
    (c ((x + 2) % 5) y z ^^ (!c ((x + 3) % 5) y z && c ((x + 4) % 5) y z)))

theorem chiInvBit_chiBit (a : CubeFn) {x : Nat} (y z : Nat) (hx : x < 5) : chiInvBit (chiBit a) x y z = a x y z := by
  have hrow : ∀ a0 a1 a2 a3 a4 : Bool,
      ((a0 ^^ (!a1 && a2)) ^^ (!(a1 ^^ (!a2 && a3)) &&
        ((a2 ^^ (!a3 && a4)) ^^ (!(a3 ^^ (!a4 && a0)) && (a4 ^^ (!a0 && a1)))))) = a0 := by decide
  have hwrap (k : Nat) : ((x + k) % 5 + 1) % 5 = (x + (k + 1)) % 5 ∧ ((x + k) % 5 + 2) % 5 = (x + (k + 2)) % 5 := by
    omega
  have h5 : (x + 5) % 5 = x ∧ (x + 6) % 5 = (x + 1) % 5 := by omega
  simp only [chiInvBit, chiBit_eq, hwrap, Nat.reduceAdd, h5]
  exact hrow _ _ _ _ _

theorem chiBit_losesNothing : LosesNothing fun _ => chiBit := by
  intro l a b h x hx y hy z hz
  have hcol (k : Nat) : chiBit a ((x + k) % 5) y z = chiBit b ((x + k) % 5) y z :=
    h _ (Nat.mod_lt _ (by decide)) y hy z hz
  rw [← chiInvBit_chiBit a y z hx, ← chiInvBit_chiBit b y z hx]
  simp only [chiInvBit, h x hx y hy z hz, hcol]

/-- ι XORs every bit with one that does not depend on the cube. -/
theorem iotaBit_losesNothing (ir : Nat) : LosesNothing fun l => iotaBit l ir := by
  intro l a b h x hx y hy z hz
  exact Bool.xor_left_inj.mp (h x hx y hy z hz)

/-! ### θ loses nothing (R135, general knowledge G3)

Column parities that θ cancels obey a linear recurrence in x and z. Over bits, squaring it doubles its steps, so at the step
W, the period in z, it speaks of one row only, where the period 5 leaves zero as its only solution. -/

/-- Every bit is the XOR of the bit `n` to its left and the bit `n` to its right that lies `n` back in z. With `n` = 1 this
is D of R100. -/
def ThetaRecurrence (p : Nat → Nat → Bool) (n : Nat) : Prop :=
  ∀ x z, p (x + n) (z + n) = (p x (z + n) ^^ p (x + 2 * n) z)

/-- The recurrence at a place whose coordinates are written in another way. -/
theorem ThetaRecurrence.apply {p : Nat → Nat → Bool} {n x z x₁ x₂ z₁ : Nat} (h : ThetaRecurrence p n)
    (hx₁ : x₁ = x + n) (hx₂ : x₂ = x + 2 * n) (hz₁ : z₁ = z + n) : p x₁ z₁ = (p x z₁ ^^ p x₂ z) := by
  subst hx₁ hx₂ hz₁
  exact h x z

/-- Squaring the recurrence: its two middle terms cancel. -/
theorem ThetaRecurrence.double {p : Nat → Nat → Bool} {n : Nat} (h : ThetaRecurrence p n) :
    ThetaRecurrence p (2 * n) := fun x z =>
  calc p (x + 2 * n) (z + 2 * n)
    _ = (p (x + n) (z + 2 * n) ^^ p (x + 3 * n) (z + n)) := h.apply (by omega) (by omega) (by omega)
    _ = ((p x (z + 2 * n) ^^ p (x + 2 * n) (z + n)) ^^
          (p (x + 2 * n) (z + n) ^^ p (x + 2 * (2 * n)) z)) :=
        congrArg₂ Bool.xor (h.apply rfl rfl (by omega)) (h.apply (by omega) (by omega) rfl)
    _ = (p x (z + 2 * n) ^^ p (x + 2 * (2 * n)) z) := by
        rw [Bool.xor_assoc, ← Bool.xor_assoc (p _ (z + n)), Bool.xor_self, Bool.false_xor]

theorem ThetaRecurrence.two_pow {p : Nat → Nat → Bool} (h : ThetaRecurrence p 1) (k : Nat) :
    ThetaRecurrence p (2 ^ k) := by
  induction k with
  | zero => exact h
  | succ k ih =>
    rw [Nat.pow_succ']
    exact ih.double

/-- A row of period 5 in which every bit is the XOR of its two neighbours at distance `n` is zero: the recurrence has
period 3n, so 6n and 5n are periods, and then n is. -/
theorem eq_false_of_periodic_five {g : Nat → Bool} {n : Nat} (h5 : Function.Periodic g 5)
    (h : ∀ x, g (x + n) = (g x ^^ g (x + 2 * n))) (x : Nat) : g x = false := by
  have hnext (x : Nat) : g (x + 2 * n) = (g x ^^ g (x + n)) := by
    rw [h x, ← Bool.xor_assoc, Bool.xor_self, Bool.false_xor]
  have h3 : Function.Periodic g (3 * n) := fun x => by
    rw [show x + 3 * n = x + n + 2 * n by omega, hnext, show x + n + n = x + 2 * n by omega, hnext,
      Bool.xor_left_comm, Bool.xor_self, Bool.xor_false]
  have h5n : Function.Periodic g (n * 5) := by simpa using h5.nat_mul n
  have h6n : Function.Periodic g (2 * (3 * n)) := by simpa using h3.nat_mul 2
  have hn : Function.Periodic g n := fun x => by
    rw [← h5n (x + n), ← h6n x]
    congr 1
    omega
  have hx := h x
  rwa [Nat.two_mul, ← Nat.add_assoc, hn (x + n), hn x, Bool.xor_self] at hx

/-- With a power of two as its period in z and 5 as its period in x, a plane that meets the recurrence is zero. -/
theorem ThetaRecurrence.eq_false {p : Nat → Nat → Bool} (h : ThetaRecurrence p 1) {k : Nat}
    (hx : ∀ z, Function.Periodic (p · z) 5) (hz : ∀ x, Function.Periodic (p x) (2 ^ k)) (x z : Nat) :
    p x z = false :=
  eq_false_of_periodic_five (hx z) (fun x => by simpa only [hz _ z] using h.two_pow k x z) x

theorem xor_xor_xor_swap_middle (a b c d : Bool) : ((a ^^ b) ^^ (c ^^ d)) = ((a ^^ c) ^^ (b ^^ d)) := by
  rw [Bool.xor_assoc, Bool.xor_left_comm b, ← Bool.xor_assoc]

/-- Column parities are linear over XOR. -/
theorem columnParity_xor (a b : CubeFn) (x z : Nat) :
    columnParity (fun x y z => a x y z ^^ b x y z) x z = (columnParity a x z ^^ columnParity b x z) := by
  unfold columnParity
  rw [xor_xor_xor_swap_middle (a x 0 z), xor_xor_xor_swap_middle (a x 0 z ^^ a x 1 z),
    xor_xor_xor_swap_middle (a x 0 z ^^ a x 1 z ^^ a x 2 z),
    xor_xor_xor_swap_middle (a x 0 z ^^ a x 1 z ^^ a x 2 z ^^ a x 3 z)]

/-- θ is linear over XOR. -/
theorem thetaBit_xor (w : Nat) (a b : CubeFn) (x y z : Nat) :
    thetaBit w (fun x y z => a x y z ^^ b x y z) x y z = (thetaBit w a x y z ^^ thetaBit w b x y z) := by
  rw [thetaBit, thetaD, columnParity_xor, columnParity_xor, xor_xor_xor_swap_middle (columnParity _ _ _),
    xor_xor_xor_swap_middle, ← thetaD, ← thetaD, ← thetaBit, ← thetaBit]

theorem subMod_succ_mod (a : Nat) {n : Nat} (hn : 0 < n) : subMod ((a + 1) % n) 1 n = a % n := by
  rw [← Nat.mod_add_mod]
  exact subMod_add_mod (a % n) 1 (Nat.mod_lt a hn)

section
variable {l : Build} {d : CubeFn} (h : AgreeInCube l (thetaBit (laneDepth l) d) fun _ _ _ => false)
include h

theorem eq_thetaD_of_thetaBit_eq_false {x y z : Nat} (hx : x < 5) (hy : y < 5) (hz : z < laneDepth l) :
    d x y z = thetaD (laneDepth l) d x z := by
  simpa [thetaBit] using h x hx y hy z hz

/-- The five bits of a column that θ cancels are equal, so each is the column's parity. -/
theorem columnParity_eq_thetaD {x z : Nat} (hx : x < 5) (hz : z < laneDepth l) :
    columnParity d x z = thetaD (laneDepth l) d x z := by
  have hcol {y : Nat} (hy : y < 5) := eq_thetaD_of_thetaBit_eq_false h hx hy hz
  simp [columnParity, hcol]

theorem columnParity_thetaRecurrence : ThetaRecurrence (fun x z => columnParity d (x % 5) (z % laneDepth l)) 1 := by
  intro x z
  have hw := laneDepth_pos l
  beta_reduce
  rw [columnParity_eq_thetaD h (Nat.mod_lt _ (by decide)) (Nat.mod_lt _ hw), thetaD, subMod_succ_mod x (by decide),
    subMod_succ_mod z hw, Nat.mod_add_mod]

theorem columnParity_eq_false {x z : Nat} (hx : x < 5) (hz : z < laneDepth l) : columnParity d x z = false := by
  have hp := (columnParity_thetaRecurrence h).eq_false (k := l.val) (fun z x => by simp)
    (fun x z => by simp [laneDepth]) x z
  simpa only [Nat.mod_eq_of_lt hx, Nat.mod_eq_of_lt hz] using hp

/-- Only the zero cube is mapped to zero. -/
theorem agreeInCube_false_of_thetaBit : AgreeInCube l d fun _ _ _ => false := fun x hx y hy z hz => by
  rw [eq_thetaD_of_thetaBit_eq_false h hx hy hz, ← columnParity_eq_thetaD h hx hz, columnParity_eq_false h hx hz]

end

theorem thetaBit_losesNothing : LosesNothing fun l => thetaBit (laneDepth l) := by
  intro l a b h
  have hzero : AgreeInCube l (thetaBit (laneDepth l) fun x y z => a x y z ^^ b x y z) fun _ _ _ => false :=
    fun x hx y hy z hz => by simpa [thetaBit_xor] using h x hx y hy z hz
  intro x hx y hy z hz
  simpa using agreeInCube_false_of_thetaBit hzero x hx y hy z hz

/-! ### Phases and rounds make equal cubes from equal cubes only (R134, R135) -/

section
variable {s t : State} (hl : s.l = t.l)
include hl

theorem State.thetaPhase_act_eq_iff : s.thetaPhase.act = t.thetaPhase.act ↔ s.act = t.act :=
  (phase_act_eq_iff hl thetaBit_losesNothing :)

theorem State.rhoPhase_act_eq_iff : s.rhoPhase.act = t.rhoPhase.act ↔ s.act = t.act :=
  (phase_act_eq_iff hl rhoBit_losesNothing :)

theorem State.piPhase_act_eq_iff : s.piPhase.act = t.piPhase.act ↔ s.act = t.act :=
  (phase_act_eq_iff hl piBit_losesNothing :)

theorem State.chiPhase_act_eq_iff : s.chiPhase.act = t.chiPhase.act ↔ s.act = t.act :=
  (phase_act_eq_iff hl chiBit_losesNothing :)

theorem State.iotaPhase_act_eq_iff (ir : Nat) : (s.iotaPhase ir).act = (t.iotaPhase ir).act ↔ s.act = t.act :=
  (phase_act_eq_iff hl (iotaBit_losesNothing ir) :)

theorem State.round_act_eq_iff (ir : Nat) : (s.round ir).act = (t.round ir).act ↔ s.act = t.act := by
  rw [round, round, iotaPhase_act_eq_iff, chiPhase_act_eq_iff, piPhase_act_eq_iff, rhoPhase_act_eq_iff,
    thetaPhase_act_eq_iff] <;> exact hl

theorem State.runRounds_act_eq_iff (ir n : Nat) :
    (s.runRounds ir n).act = (t.runRounds ir n).act ↔ s.act = t.act := by
  induction n generalizing s t ir with
  | zero => rfl
  | succ n ih =>
    rw [runRounds, runRounds, ih (by rwa [round_l, round_l]), round_act_eq_iff hl]

/-- KECCAK ends with equal cubes exactly where it starts from equal cubes, an illegal NR included. -/
theorem exec_keccak_act_eq_iff {s' t' : State} {nr : Nat} (hs : exec (.keccak nr) s = .next s')
    (ht : exec (.keccak nr) t = .next t') : s'.act = t'.act ↔ s.act = t.act := by
  obtain hle | hlt := le_or_gt nr (fullRounds s.l)
  · obtain rfl := eq_of_next (exec_keccak_legal s hle) hs
    obtain rfl := eq_of_next (exec_keccak_legal t (hl ▸ hle)) ht
    rw [← hl]
    exact State.runRounds_act_eq_iff hl _ _
  · obtain rfl := eq_of_next (exec_keccak_beyond s hlt) hs
    obtain rfl := eq_of_next (exec_keccak_beyond t (hl ▸ hlt)) ht
    rfl

end

/-! ### The zero cube (R135) -/

/-- All bits zero. -/
def zeroCube : CubeFn := fun _ _ _ => false

theorem State.phase_zeroCube_act (s : State) : (s.phase zeroCube).act = fun _ => false := by
  funext i
  simp [phase_act, cubeBits, zeroCube]

theorem thetaBit_zeroCube (w : Nat) : thetaBit w zeroCube = zeroCube := rfl
theorem rhoBit_zeroCube (w : Nat) : rhoBit w zeroCube = zeroCube := rfl
theorem piBit_zeroCube : piBit zeroCube = zeroCube := rfl
theorem chiBit_zeroCube : chiBit zeroCube = zeroCube := rfl

theorem iotaBit_zeroCube {l : Build} {ir : Nat} (h : ∀ z, iotaFlip l ir z = false) :
    iotaBit l ir zeroCube = zeroCube := by
  funext x y z
  simp [iotaBit, h, zeroCube]

section
variable {s : State} (hs : s.act = fun _ => false)
include hs

theorem State.cube_eq_zeroCube : s.cube = zeroCube := by
  funext x y z
  rw [cube, hs, zeroCube]

theorem State.phase_act_of_zero {F : CubeFn → CubeFn} (hF : F zeroCube = zeroCube) :
    (s.phase (F s.cube)).act = fun _ => false := by
  rw [cube_eq_zeroCube hs, hF, phase_zeroCube_act]

/-- A round keeps a zero cube zero where ι flips nothing. -/
theorem State.round_act_of_zero {ir : Nat} (hflip : ∀ z, iotaFlip s.l ir z = false) :
    (s.round ir).act = fun _ => false := by
  have htheta := s.phase_act_of_zero hs (thetaBit_zeroCube s.w)
  have hrho := s.thetaPhase.phase_act_of_zero htheta (rhoBit_zeroCube s.w)
  have hpi := s.thetaPhase.rhoPhase.phase_act_of_zero hrho piBit_zeroCube
  have hchi := s.thetaPhase.rhoPhase.piPhase.phase_act_of_zero hpi chiBit_zeroCube
  exact s.thetaPhase.rhoPhase.piPhase.chiPhase.phase_act_of_zero hchi (iotaBit_zeroCube hflip)

theorem State.runRounds_act_of_zero (hflip : ∀ ir z, iotaFlip s.l ir z = false) (ir n : Nat) :
    (s.runRounds ir n).act = fun _ => false := by
  induction n generalizing s ir with
  | zero => exact hs
  | succ n ih =>
    rw [runRounds]
    exact ih (round_act_of_zero hs (hflip ir)) (by rwa [round_l]) (ir + 1)

end

/-- With L = 0 no position is a candidate. -/
theorem iotaFlip_smallest_build (ir z : Nat) : iotaFlip 0 ir z = false := iotaFlip_no_candidate ir (by simp)

/-- The bits rc(119), rc(120) and rc(121), read off the sequence of R111. -/
theorem rc_last_round_three : ∀ j < 3, rc (j + 7 * 17) = false := by
  intro j hj
  rw [Sys2Proof.Proofs.RoundPhases.roundConstantSequence (j + 7 * 17) (by omega)]
  revert j
  decide

/-- With L = 3 the last round, of index 17, flips nothing. -/
theorem iotaFlip_last_round_three (z : Nat) : iotaFlip 3 17 z = false := by
  rw [Bool.eq_false_iff, ne_eq, iotaFlip_eq_true_iff]
  rintro ⟨j, hj, -, hset⟩
  exact absurd hset (Bool.eq_false_iff.mp (rc_last_round_three j hj))

end Sys2Proof.Machine

/-! ### The obligations -/

namespace Sys2Proof.Proofs.RoundSequencer

open Sys2Proof.Machine Sys2Proof.Config

/-- Settles O31: the rounds write buffers and SEL only, and the phase commands of the same rounds leave the same ones
(`execAll_roundsInstrs`, by induction on the number of rounds). -/
theorem keccakEqualsItsRounds : Obligations.KeccakEqualsItsRounds := by
  intro s nr hle
  obtain ⟨u, hexec, hu⟩ := execAll_roundsInstrs s (fullRounds s.l - nr) nr
  refine ⟨_, u, exec_keccak_legal s hle, s.runRounds_respond_portsKept _ _ _,
    s.respond_succeeded _ _ (s.runRounds_status _ _), hexec, ?_⟩
  rw [← hu]
  rfl

/-- Settles O38: θ's kernel is zero (`agreeInCube_false_of_thetaBit`) and θ is linear. -/
theorem thetaInjective : Obligations.ThetaInjective := by
  intro s t s' t' hl hs ht h
  exact congrFun ((exec_phase_act_eq_iff hl thetaBit_losesNothing exec_theta hs ht).mp (funext h))

/-- Settles O39, by induction on the rounds (`runRounds_act_eq_iff`), each of which loses nothing. -/
theorem keccakInjective : Obligations.KeccakInjective := fun _ _ _ _ _ hl hs ht h =>
  congrFun ((exec_keccak_act_eq_iff hl hs ht).mp (funext h))

/-- Settles O33: rounds compose (`runRounds_add`), and those of KECCAK n do not see the STATUS that the commands before
it left, so both ways end in one state. -/
theorem keccakComposes : Obligations.KeccakComposes := by
  intro s n m hle
  obtain ⟨u, hexec, hu⟩ := execAll_roundsInstrs s (fullRounds s.l - n - m) m
  have hl : u.l = s.l := (congrArg State.l hu).trans (s.runRounds_l _ _)
  have hlast : exec (.keccak n) u = .next ((u.runRounds (fullRounds s.l - n) n).respond .none) :=
    hl ▸ exec_keccak_legal u (hl ▸ Nat.le_of_add_right_le hle)
  have hsame : (u.runRounds (fullRounds s.l - n) n).respond .none =
      (s.runRounds (fullRounds s.l - (n + m)) (n + m)).respond .none := by
    rw [← State.respond_runRounds, hu, State.respond_runRounds, Nat.add_comm n m, State.runRounds_add,
      Nat.add_comm m n, ← Nat.sub_sub, Nat.sub_add_cancel (Nat.le_sub_of_add_le' hle)]
  exact ⟨_, u, _, exec_keccak_legal s hle, hexec, hlast, congrArg State.sel hsame, fun i =>
    ⟨congrArg (State.act · i) hsame, congrArg (State.scr · i) hsame⟩⟩

/-- Settles O35, the other direction of the fact behind O39. -/
theorem keccakDependsOnCubeOnly : Obligations.KeccakDependsOnCubeOnly := fun _ _ _ _ _ hl h hs ht =>
  congrFun ((exec_keccak_act_eq_iff hl hs ht).mpr (funext h))

/-- Settles O36: four phases map the zero cube to itself, and ι does in the rounds in which it flips nothing. -/
theorem zeroCubeFixedPoints : Obligations.ZeroCubeFixedPoints := by
  intro s hzero
  have hs : s.act = fun _ => false := funext hzero
  refine ⟨fun i hi => ?_, fun hl nr hnr => ?_, fun hl => ?_⟩
  · simp only [List.mem_cons, List.not_mem_nil, or_false] at hi
    obtain rfl | rfl | rfl | rfl := hi
    · exact ⟨_, exec_theta s, congrFun (s.phase_act_of_zero hs (thetaBit_zeroCube s.w))⟩
    · exact ⟨_, exec_rho s, congrFun (s.phase_act_of_zero hs (rhoBit_zeroCube s.w))⟩
    · exact ⟨_, exec_pi s, congrFun (s.phase_act_of_zero hs piBit_zeroCube)⟩
    · exact ⟨_, exec_chi s, congrFun (s.phase_act_of_zero hs chiBit_zeroCube)⟩
  · have hle : nr ≤ fullRounds s.l := by rwa [hl]
    refine ⟨_, exec_keccak_legal s hle, congrFun (State.runRounds_act_of_zero hs ?_ _ _)⟩
    rw [hl]
    exact iotaFlip_smallest_build
  · have hle : 1 ≤ fullRounds s.l := by rw [hl]; decide
    refine ⟨_, exec_keccak_legal s hle, s.round_sel _, congrFun (s.round_act_of_zero hs ?_)⟩
    rw [hl]
    exact iotaFlip_last_round_three

/-- Settles O37: the bit function of each of the four phases loses nothing. -/
theorem bitMovingAndRowPhasesInjective : Obligations.BitMovingAndRowPhasesInjective := by
  intro s t s' t' i hi hl hs ht h
  refine congrFun (Iff.mp ?_ (funext h))
  obtain rfl | rfl | rfl | ⟨ir, rfl⟩ := hi
  · exact exec_phase_act_eq_iff hl rhoBit_losesNothing exec_rho hs ht
  · exact exec_phase_act_eq_iff hl piBit_losesNothing exec_pi hs ht
  · exact exec_phase_act_eq_iff hl chiBit_losesNothing exec_chi hs ht
  · exact exec_phase_act_eq_iff hl (iotaBit_losesNothing ir) (exec_iota ir) hs ht

/-- Settles O32: the check fails before any round, and raising OutOfRange writes STATUS only. -/
theorem keccakBeyondScheduleFails : Obligations.KeccakBeyondScheduleFails := fun s _ hlt =>
  ⟨_, exec_keccak_beyond s hlt, s.raise_failedWith .outOfRange⟩

end Sys2Proof.Proofs.RoundSequencer
end

section
/-! PROOFS. The statements of 43_sponge.md: ABSORB as the XOR and KECCAK R, its case of a zero cube, and the ABSORBs that
SPONGE issues. -/

namespace Sys2Proof.Machine

open Sys2Proof.Config

/-! ### ABSORB (43_sponge.md R140) -/

theorem exec_absorb (s : State) :
    exec .absorb s = .next ((s.xorDin.runRounds 0 (fullRounds s.l)).respond .none) := rfl

/-- The rounds 0 to R−1 of ABSORB are those of KECCAK R. -/
theorem exec_keccak_xorDin (s : State) : exec (.keccak (fullRounds s.l)) s.xorDin = exec .absorb s := by
  have hkeccak := exec_keccak_legal s.xorDin (Nat.le_refl (fullRounds s.l))
  rw [hkeccak, exec_absorb, State.xorDin_l, Nat.sub_self]

theorem fullRounds_mod_two (l : Build) : fullRounds l % 2 = 0 := Nat.add_mul_mod_self_left 12 2 l.val

/-- Each round inverts SEL, and the number of rounds of ABSORB is even. -/
theorem State.runRounds_fullRounds_sel (s : State) (ir : Nat) (l : Build) :
    (s.runRounds ir (fullRounds l)).sel = s.sel := by
  simp [runRounds_sel, fullRounds_mod_two]

/-! ### From the zero cube (43_sponge.md R140) -/

theorem execAll_cons {i : Instr} {s t : State} (is : List Instr) (h : exec i s = .next t) :
    execAll (i :: is) s = execAll is t := by
  rw [execAll, h]

/-- Into a zero cube, the XOR of DIN writes what LOAD writes. -/
theorem State.xorDin_act_of_zero {s : State} (hs : ∀ i, s.act i = false) : s.xorDin.act = s.loadDin.act := by
  funext i
  rw [xorDin_act, hs, Bool.false_xor, loadDin_act]

/-! ### The padded message (43_sponge.md R142) -/

theorem spongePad_lt {b : Nat} (hb : 0 < b) (n : Nat) : spongePad b n < b := Nat.mod_lt _ hb

/-- Padding ends at a multiple of the block size. -/
theorem dvd_add_spongePad {b : Nat} (hb : 0 < b) (n : Nat) : b ∣ n + spongePad b n := by
  have hmod : n % b < b := Nat.mod_lt n hb
  have hsplit : b * (n / b) + n % b = n := Nat.div_add_mod n b
  have hfull : n + (b - n % b) = b * (n / b + 1) := by rw [Nat.mul_succ]; omega
  rw [Nat.dvd_iff_mod_eq_zero, spongePad, Nat.add_mod_mod, hfull, Nat.mul_mod_right]

/-- The padded length is the least such multiple, so it holds ⌈n/b⌉ blocks. -/
theorem padded_blocks_eq_ceil {b : Nat} (hb : 0 < b) (n : Nat) : (n + spongePad b n) / b = (n + b - 1) / b := by
  obtain ⟨c, hc⟩ := dvd_add_spongePad hb n
  have hpad := spongePad_lt hb n
  have hceil : (n + b - 1) / b = c := by
    refine Nat.div_eq_of_lt_le ?_ ?_
    · rw [Nat.mul_comm, ← hc]; omega
    · rw [Nat.mul_comm, Nat.mul_succ, ← hc]; omega
  rw [hceil, hc, Nat.mul_div_cancel_left c hb]

theorem Container.bitOrZero_of_le {m : Container} {i : Nat} (hi : m.length ≤ i) : m.bitOrZero i = false := by
  rw [bitOrZero, decide_eq_false (Nat.not_lt.mpr hi), Bool.false_and]

/-- What SPONGE pads with reads as zero, as all bits past the end do. -/
theorem spongeMessage_bitOrZero (l : Build) (m : Container) (i : Nat) :
    (spongeMessage l m).bitOrZero i = m.bitOrZero i := by
  refine (Container.bitOrZero_ofBits _ m.bitOrZero i).trans ?_
  obtain hi | hi := lt_or_ge i m.length
  · rw [decide_eq_true (Nat.lt_add_right _ hi), Bool.true_and]
  · rw [Container.bitOrZero_of_le hi, Bool.and_false]

theorem getLsbD_spongeBlock (l : Build) (m : Container) (k : Nat) {i : Nat} (hi : i < stateBits l) :
    (spongeBlock l m k).getLsbD i = m.bitOrZero (k * stateBits l + i) := by
  rw [spongeBlock, getLsbD_bitsOf, decide_eq_true hi, Bool.true_and]

/-! ### The commands of SPONGE (43_sponge.md R142) -/

theorem encode_absorb : encode .absorb = 0x80000000#32 := rfl

theorem spongeActions_length (l : Build) (m : Container) :
    (spongeActions l m).length = (spongeMessage l m).length / stateBits l :=
  (List.length_map _).trans List.length_range

theorem spongeActions_getElem? {l : Build} {m : Container} {k : Nat}
    (hk : k < (spongeMessage l m).length / stateBits l) :
    (spongeActions l m)[k]? = some (.command (encode .absorb) (spongeBlock l (spongeMessage l m) k)) :=
  List.getElem?_map.trans (congrArg (Option.map _) (List.getElem?_range hk))

/-- The message after SPONGE makes ⌈|M|/B⌉ whole blocks. -/
theorem spongeMessage_blocks (l : Build) (m : Container) :
    (spongeMessage l m).length / stateBits l = (m.length + stateBits l - 1) / stateBits l :=
  padded_blocks_eq_ceil (stateBits_pos l) m.length

end Sys2Proof.Machine

/-! ### The obligations -/

namespace Sys2Proof.Proofs.Sponge

open Sys2Proof.Machine Sys2Proof.Config

/-- Settles O40: the state with the XORed buffer is `xorDin`, from which KECCAK R runs the rounds of ABSORB
(`exec_keccak_xorDin`); their number is even, so SEL comes back. -/
theorem absorbIsXorThenPermutation : Obligations.AbsorbIsXorThenPermutation := fun s =>
  ⟨s.xorDin.buf0, s.xorDin.buf1, _, fun i _ => s.xorDin_act i, fun i _ => s.xorDin_scr i, exec_absorb s,
    exec_keccak_xorDin s, s.xorDin.runRounds_respond_portsKept 0 _ .none,
    s.respond_succeeded _ .none (s.xorDin.runRounds_status 0 _), s.xorDin.runRounds_fullRounds_sel 0 s.l⟩

/-- Settles O41: XOR and LOAD leave one cube (`xorDin_act_of_zero`), and the cube of KECCAK R depends on nothing else
(`exec_keccak_act_eq_iff`). -/
theorem absorbFromZeroIsLoadThenPermutation : Obligations.AbsorbFromZeroIsLoadThenPermutation := by
  intro s hzero
  have habsorb := (exec_keccak_xorDin s).trans (exec_absorb s)
  have hkeccak := exec_keccak_legal (s.loadDin.respond .none) (Nat.le_refl (fullRounds s.l))
  have hl : s.xorDin.l = (s.loadDin.respond .none).l := rfl
  have hcube : s.xorDin.act = (s.loadDin.respond .none).act := State.xorDin_act_of_zero hzero
  exact ⟨_, _, exec_absorb s, (execAll_cons _ (exec_load s)).trans (execAll_cons [] hkeccak),
    congrFun ((exec_keccak_act_eq_iff hl habsorb hkeccak).mpr hcube)⟩

/-- Settles O42: the padded message has ⌈|M|/B⌉ blocks (`spongeMessage_blocks`), and its bits are those of M, then zeros
(`spongeMessage_bitOrZero`). -/
theorem spongeIssuesOneAbsorbPerBlock : Obligations.SpongeIssuesOneAbsorbPerBlock := by
  intro l m
  rw [← spongeMessage_blocks]
  refine ⟨spongeActions_length l m, fun k hk => ⟨spongeBlock l (spongeMessage l m) k, ?_, fun i hi => ?_⟩⟩
  · rw [spongeActions_getElem? hk, encode_absorb]
  · exact (getLsbD_spongeBlock l _ k hi).trans (spongeMessage_bitOrZero l m _)

end Sys2Proof.Proofs.Sponge
end

section
/-! PROOFS. The statements of 44_extraction.md: the whole state from GETSTATE and its container, the first word from COPYU64,
and the sampler's first word. -/

namespace Sys2Proof.Machine

open Sys2Proof.Config

/-! ### The host's container of a response (20_memory.md R47, R56) -/

theorem Container.ofBits_words_length (n : Nat) (f : Nat → Bool) :
    (Container.ofBits n f).words.length = (n + 63) / 64 :=
  (List.length_map _).trans List.length_range

/-- The bits past the end of a well-formed container are its padding, all zero. -/
theorem Container.bit_eq_false_of_wf {c : Container} (hwf : c.wf = true) {i : Nat} (hi : i < 64 * c.words.length)
    (hle : c.length ≤ i) : c.bit i = false := by
  simp only [wf, Bool.and_eq_true, List.all_eq_true, List.mem_range] at hwf
  obtain ⟨-, hpad⟩ := hwf
  simpa [Nat.not_lt.mpr hle] using hpad i hi

theorem Container.get_ofBits (n : Nat) (f : Nat → Bool) {i : Nat} (hi : i < n) :
    (Container.ofBits n f).get i = .ok (f i) :=
  (get_of_lt (c := .ofBits n f) hi).trans (congrArg _ (bit_ofBits n f hi))

/-- A container of one word holds its bits most significant first (R44). -/
theorem Container.bitOrZero_fromWords_singleton (w : Word64) {i : Nat} (hi : i < 64) :
    (Container.fromWords [w]).bitOrZero i = w.getLsbD (63 - i) := by
  simp [bitOrZero, bit, fromWords, Nat.div_eq_of_lt hi, Nat.mod_eq_of_lt hi, hi]

/-! ### The first word (44_extraction.md R152, R153) -/

/-- The builds whose state holds a word. -/
theorem word_le_stateBits_iff : ∀ l : Build, 64 ≤ stateBits l ↔ 2 ≤ l.val := by decide

theorem State.getLsbD_firstWord (s : State) {j : Nat} (hj : j < 64) : s.firstWord.getLsbD j = s.act (63 - j) := by
  rw [firstWord, getLsbD_bitsOf, decide_eq_true hj, Bool.true_and]

/-- After LOAD of the one-word message `w`, the first word is `w`. -/
theorem State.firstWord_of_act_eq_dinOf {s : State} (l : Build) {w : Word64} (hl : 64 ≤ stateBits l)
    (hact : s.act = (dinOf l (.fromWords [w])).getLsbD) : s.firstWord = w := by
  apply BitVec.eq_of_getLsbD_eq
  intro j hj
  have hi : 63 - j < 64 := by omega
  calc s.firstWord.getLsbD j = (dinOf l (.fromWords [w])).getLsbD (63 - j) := by rw [s.getLsbD_firstWord hj, hact]
    _ = (Container.fromWords [w]).bitOrZero (63 - j) := getLsbD_dinOf l _ (hi.trans_le hl)
    _ = w.getLsbD (63 - (63 - j)) := Container.bitOrZero_fromWords_singleton w hi
    _ = w.getLsbD j := by rw [Nat.sub_sub_self (Nat.le_of_lt_succ hj)]

/-! ### The sampler's commands (44_extraction.md R154) -/

/-- With one sample or more, the sampler begins with LOAD of the seed word and COPYU64. -/
theorem samplerActions_succ (l : Build) (seed : Word64) (n : Nat) :
    ∃ rest, samplerActions l seed (n + 1) =
      .command (encode .load) (dinOf l (.fromWords [seed])) :: .command (encode .copyu64) 0 :: rest :=
  ⟨_, rfl⟩

/-- A step that serves the word of a well-formed command runs that command. -/
theorem State.advance_of_encode {s t : State} {i : Instr} {v : BitVec (stateBits s.l)}
    {rest : List (HostAction (stateBits s.l))} (hinbox : s.inbox = .command (encode i) v :: rest)
    (hi : i.wellFormed = true) (hexec : exec i (s.accept rest v) = .next t) : s.advance = t :=
  advance_of_step ((step_command hinbox (decode_encode hi)).trans hexec)

/-- COPYU64 right after LOAD responds with the first word of the loaded value. -/
theorem State.run_load_copyu64 {s : State} {v u : BitVec (stateBits s.l)} {rest : List (HostAction (stateBits s.l))}
    (hinbox : s.inbox = .command (encode .load) v :: .command (encode .copyu64) u :: rest)
    (hl : 64 ≤ stateBits s.l) : ∃ t : State, s.run 2 = t.respond (.word t.firstWord) ∧ t.act = v.getLsbD := by
  have hload := advance_of_encode hinbox rfl (exec_load _)
  have hcopy := advance_of_encode (s := (s.accept (.command (encode .copyu64) u :: rest) v).loadDin.respond .none)
    (i := .copyu64) (v := u) (rest := rest) rfl rfl (exec_copyu64_full _ hl)
  exact ⟨_, (congrArg advance hload).trans hcopy, rfl⟩

end Sys2Proof.Machine

/-! ### The obligations -/

namespace Sys2Proof.Proofs.Extraction

open Sys2Proof.Machine Sys2Proof.Config

/-- Settles O44: the builds with L ≥ 2 are those whose state holds a word (`word_le_stateBits_iff`); there COPYU64 responds
with it, elsewhere it raises OutOfRange. -/
theorem copyRespondsFirstWord : Obligations.CopyRespondsFirstWord := by
  refine fun s => ⟨fun hl => ?_, fun hl => ?_⟩
  · have hfull := (word_le_stateBits_iff s.l).mpr hl
    refine ⟨_, _, exec_copyu64_full s hfull, s.finish_onlyStatusChanges _ _, s.respond_succeeded s _ rfl,
      fun i hi => ?_⟩
    rw [s.getLsbD_firstWord (by omega), Nat.sub_sub_self (Nat.le_of_lt_succ hi)]
  · have hshort := Nat.lt_of_not_le (mt (word_le_stateBits_iff s.l).mp (Nat.not_le.mpr hl))
    exact ⟨_, exec_copyu64_short s hshort, s.raise_failedWith .outOfRange⟩

/-- Settles O45: the first two steps are LOAD and COPYU64 (`run_load_copyu64`), and the first word of the DIN value made
from the seed is the seed (`firstWord_of_act_eq_dinOf`). -/
theorem samplerFirstWordIsTheSeed : Obligations.SamplerFirstWordIsTheSeed := by
  intro s seed n hl hinbox
  have hword := (word_le_stateBits_iff s.l).mpr hl
  obtain ⟨rest, hactions⟩ := samplerActions_succ s.l seed n
  obtain ⟨t, hrun, hact⟩ := State.run_load_copyu64 (hinbox.trans hactions) hword
  rw [hrun, State.firstWord_of_act_eq_dinOf s.l hword hact]
  exact ⟨_, rfl, statusCode_updateStatus t.status successCode⟩

/-- Settles O43: GETSTATE reads every active bit (`getLsbD_memRead_all`), and packing its response into words is
well formed with zero padding (`wf_ofBits`). -/
theorem getstateRespondsWholeState : Obligations.GetstateRespondsWholeState := by
  refine ⟨decode_encode (i := .getstate) rfl, fun s => ⟨_, s.memRead 0 s.b, exec_getstate s, s.finish_onlyStatusChanges _ _,
    s.respond_succeeded s _ rfl, fun i _ => s.getLsbD_memRead_all i, rfl, Container.ofBits_words_length _ _,
    fun i hi hle => ?_, fun i hi => ?_⟩⟩
  · rw [← Container.ofBits_words_length (stateBits s.l) (s.memRead 0 s.b).getLsbD] at hi
    exact Container.bit_eq_false_of_wf (Container.wf_ofBits _ _) hi hle
  · exact (Container.get_ofBits _ _ hi).trans (congrArg _ (s.getLsbD_memRead_all i))

end Sys2Proof.Proofs.Extraction
end

section
/-! PROOFS. The statements of 45_cube_access.md: RDBIT and WRBIT, inside the cube and outside it. -/

namespace Sys2Proof.Proofs.CubeAccess

open Sys2Proof.Machine Sys2Proof.Config

/-- Settles O49: inside the cube WRBIT is a MemWrite of one bit, which reaches that active bit only (`memWrite_one`) and
neither the scratch buffer nor SEL. -/
theorem wrbitWritesOneBit : Obligations.WrbitWritesOneBit := by
  intro s x y z v hx hy hz
  have hin : inCube s.w x y z = true := inCube_iff.mpr ⟨hx, hy, hz⟩
  have hact := s.memWrite_one hin v
  exact ⟨_, exec_wrbit_inside s v hin, ⟨_, _, _, _, _, rfl⟩, s.respond_succeeded _ _ rfl, rfl,
    (hact _).trans (if_pos rfl), fun i hi => (hact i).trans (if_neg hi), s.memWrite_scr _ _ _⟩

/-- Settles O47: a coordinate outside the cube fails the check, which comes before the read and the write, and raising
OutOfRange writes STATUS only. -/
theorem coordinateOutsideCubeFails : Obligations.CoordinateOutsideCubeFails := by
  intro s x y z hout
  have hin : inCube s.w x y z = false := by
    rw [← Bool.not_eq_true, inCube_iff]
    rintro ⟨hx, hy, hz : z < laneDepth s.l⟩
    omega
  exact ⟨⟨_, exec_rdbit_outside s hin, s.raise_failedWith .outOfRange⟩,
    fun v => ⟨_, exec_wrbit_outside s v hin, s.raise_failedWith .outOfRange⟩⟩

/-- Settles O48: a coordinate inside the cube passes the check, and RDBIT responds with the cube's bit, which is the active
bit at its offset (20_memory.md R40). -/
theorem rdbitRespondsTheBit : Obligations.RdbitRespondsTheBit := by
  intro s x y z hx hy hz
  have hin : inCube s.w x y z = true := inCube_iff.mpr ⟨hx, hy, hz⟩
  exact ⟨_, exec_rdbit_inside s hin, s.finish_onlyStatusChanges _ _, s.respond_succeeded s _ rfl⟩

end Sys2Proof.Proofs.CubeAccess
end

section
/-! PROOFS. The statements of 60_exceptions.md: clean runs, the machines of a platform, which commands fail, and
what a failed command leaves alone. -/

namespace Sys2Proof.Machine

open Sys2Proof.Config

/-! ### Clean runs (60_exceptions.md R187) -/

theorem State.runsClean_iff {n : Nat} {s : State} :
    s.runsClean n = true ↔ statusSticky s.status = false ∧ statusSticky (s.run n).status = false := by
  simp [runsClean]

theorem State.Inv.advance {s : State} (hinv : s.Inv) : s.advance.Inv := by
  obtain ⟨t, hstep, -⟩ := Proofs.Scope.everyStepAnswersNext s
  rw [advance_of_step hstep]
  exact Proofs.BlockState.stepKeepsInvariant s t hinv hstep

/-- A response sent by a block whose STICKY is 0 reports success: the invariant ties it to the present STATUS. -/
theorem State.Inv.response_succeeds {s : State} (hinv : s.Inv) (hclear : statusSticky s.status = false) {r : Response}
    (hresp : s.resp = some r) : statusCode r.status = 0#4 := by
  obtain ⟨-, -, herror, hlast⟩ := hinv
  rw [hresp] at hlast
  obtain ⟨hstatus, -⟩ := hlast
  by_contra hcode
  rw [hstatus] at hcode
  exact Bool.false_ne_true (hclear.symm.trans (herror hcode))

theorem State.advance_noResetPending {s : State} (hno : s.noResetPending = true) : s.advance.noResetPending = true := by
  match hin : s.inbox with
  | [] => rwa [advance_of_step (step_idle hin)]
  | .reset :: rest => simp [noResetPending, hin] at hno
  | .command word v :: rest =>
    obtain ⟨b0, b1, q, c, d, -, -, hstep⟩ := step_command_finish hin
    rw [advance_of_step hstep]
    simp only [noResetPending, hin, List.all_cons, Bool.and_eq_true] at hno
    exact hno.2

section
variable {s : State} (hno : s.noResetPending = true)
include hno

/-- With no reset pending, a step whose response reports success leaves a clear STICKY clear. -/
theorem State.advance_clear_of_response_succeeds (hclear : statusSticky s.status = false)
    (hresp : ∀ r, s.advance.resp = some r → statusCode r.status = 0#4) : statusSticky s.advance.status = false := by
  match hin : s.inbox with
  | [] => rwa [advance_of_step (step_idle hin)]
  | .reset :: rest => simp [noResetPending, hin] at hno
  | .command word v :: rest =>
    obtain ⟨b0, b1, q, c, d, -, -, hstep⟩ := step_command_finish hin
    rw [advance_of_step hstep] at hresp ⊢
    have hcode : c = 0#4 := by simpa using hresp _ rfl
    simp [hclear, hcode]

/-- In a sound state with a clear STICKY, a step keeps STICKY clear exactly when its response reports success. -/
theorem State.advance_clear_iff (hinv : s.Inv) (hclear : statusSticky s.status = false) :
    statusSticky s.advance.status = false ↔ ∀ r, s.advance.resp = some r → statusCode r.status = 0#4 :=
  ⟨fun h _ => hinv.advance.response_succeeds h, advance_clear_of_response_succeeds hno hclear⟩

/-- STICKY is clear after a run only if it was clear after the run's first step: no command clears it. -/
theorem State.run_succ_clear_iff (n : Nat) : statusSticky (s.run (n + 1)).status = false ↔
    statusSticky s.advance.status = false ∧ statusSticky (s.advance.run n).status = false := by
  refine ⟨fun h => ⟨?_, h⟩, And.right⟩
  by_contra hset
  have hstays := Proofs.BlockState.stickyStaysUntilReset n s.advance (advance_noResetPending hno) (by simpa using hset)
  exact Bool.false_ne_true (h.symm.trans hstays)

end

theorem State.forall_mem_responses_succ {n : Nat} {s : State} {P : Response → Prop} :
    (∀ r, some r ∈ s.responses (n + 1) → P r) ↔
      (∀ r, s.advance.resp = some r → P r) ∧ ∀ r, some r ∈ s.advance.responses n → P r :=
  ⟨fun h => ⟨fun r hr => h r (hr ▸ List.mem_cons_self), fun r hr => h r (List.mem_cons_of_mem _ hr)⟩,
    fun ⟨hfirst, hrest⟩ r hr => (List.mem_cons.mp hr).elim (fun he => hfirst r he.symm) (hrest r)⟩

/-- From a sound state with a clear STICKY and no reset pending, STICKY is clear after a run exactly when every response
of the run reports success. -/
theorem State.run_clear_iff (n : Nat) {s : State} (hinv : s.Inv) (hno : s.noResetPending = true)
    (hclear : statusSticky s.status = false) :
    statusSticky (s.run n).status = false ↔ ∀ r, some r ∈ s.responses n → statusCode r.status = 0#4 := by
  induction n generalizing s with
  | zero => exact iff_of_true hclear fun _ hr => absurd hr List.not_mem_nil
  | succ n ih =>
    rw [run_succ_clear_iff hno, forall_mem_responses_succ, ← advance_clear_iff hno hinv hclear]
    exact and_congr_right fun hclear' => ih hinv.advance (advance_noResetPending hno) hclear'

/-! ### The machines of a platform (60_exceptions.md R186) -/

theorem Platform.stepAt_getElem?_same (p : Platform) (k : Nat) : (p.stepAt k)[k]? = p[k]?.map State.advance :=
  List.getElem?_modify_eq _ _ _

theorem Platform.stepAt_getElem?_other (p : Platform) {j k : Nat} (h : j ≠ k) : (p.stepAt j)[k]? = p[k]? :=
  List.getElem?_modify_ne _ _ h

/-! ### Which commands fail (60_exceptions.md R172, R173) -/

theorem inCube_of_not_outside {w x y z : Nat} (h : ¬(5 ≤ x ∨ 5 ≤ y ∨ w ≤ z)) : inCube w x y z = true :=
  inCube_iff.mpr ⟨Nat.not_le.mp fun hx => h (.inl hx), Nat.not_le.mp fun hy => h (.inr (.inl hy)),
    Nat.not_le.mp fun hz => h (.inr (.inr hz))⟩

theorem inCube_of_outside {w x y z : Nat} (h : 5 ≤ x ∨ 5 ≤ y ∨ w ≤ z) : inCube w x y z = false := by
  refine Bool.eq_false_iff.mpr fun hin => ?_
  obtain ⟨hx, hy, hz⟩ := inCube_iff.mp hin
  exact h.elim hx.not_ge fun h => h.elim hy.not_ge hz.not_ge

/-- The commands whose operand, or build, their check refuses. -/
def OutOfRange (l : Build) (i : Instr) : Prop :=
  (∃ nr, i = .keccak nr ∧ fullRounds l < nr) ∨ (i = .copyu64 ∧ stateBits l < 64) ∨
    (∃ x y z, (i = .rdbit x y z ∨ ∃ v, i = .wrbit x y z v) ∧ (5 ≤ x ∨ 5 ≤ y ∨ laneDepth l ≤ z))

/-- A command whose check refuses raises OutOfRange. -/
theorem exec_of_outOfRange {i : Instr} {s : State} (h : OutOfRange s.l i) : exec i s = .next (s.raise .outOfRange) := by
  obtain ⟨nr, rfl, hlt⟩ | ⟨rfl, hlt⟩ | ⟨x, y, z, rfl | ⟨v, rfl⟩, hout⟩ := h
  · exact exec_keccak_beyond s hlt
  · exact exec_copyu64_short s hlt
  · exact exec_rdbit_outside s (inCube_of_outside hout)
  · exact exec_wrbit_outside s v (inCube_of_outside hout)

/-- Every other command responds. -/
theorem exec_of_not_outOfRange {i : Instr} {s : State} (h : ¬ OutOfRange s.l i) :
    ∃ (u : State) (d : Data), exec i s = .next (u.respond d) := by
  cases i with
  | load | theta | rho | pi | chi | iota _ | absorb | getstate | rcbit _ => exact ⟨_, _, rfl⟩
  | keccak nr => exact ⟨_, _, exec_keccak_legal s (Nat.not_lt.mp fun hlt => h (.inl ⟨nr, rfl, hlt⟩))⟩
  | copyu64 => exact ⟨_, _, exec_copyu64_full s (Nat.not_lt.mp fun hlt => h (.inr (.inl ⟨rfl, hlt⟩)))⟩
  | rdbit x y z =>
    have hin : ¬(5 ≤ x ∨ 5 ≤ y ∨ s.w ≤ z) := fun hout => h (.inr (.inr ⟨x, y, z, .inl rfl, hout⟩))
    exact ⟨_, _, exec_rdbit_inside s (inCube_of_not_outside hin)⟩
  | wrbit x y z v =>
    have hin : ¬(5 ≤ x ∨ 5 ≤ y ∨ s.w ≤ z) := fun hout => h (.inr (.inr ⟨x, y, z, .inr ⟨v, rfl⟩, hout⟩))
    exact ⟨_, _, exec_wrbit_inside s v (inCube_of_not_outside hin)⟩

theorem State.respond_code (s : State) (d : Data) : statusCode (s.respond d).status = 0#4 :=
  statusCode_updateStatus s.status successCode

theorem State.raise_code (s : State) (e : ErrorKind) : statusCode (s.raise e).status = e.code :=
  statusCode_updateStatus s.status e.code

end Sys2Proof.Machine

/-! ### The obligations -/

namespace Sys2Proof.Proofs.Exceptions

open Sys2Proof.Machine Sys2Proof.Config

/-- Settles O14: step by step, STICKY stays clear exactly when the response reports success (`advance_clear_iff`), and once
set it stays set (`run_succ_clear_iff`). -/
theorem cleanRunIffEveryResponseSucceeds : Obligations.CleanRunIffEveryResponseSucceeds := by
  intro n s hinv hno hclear
  rw [State.runsClean_iff, and_iff_right hclear]
  exact State.run_clear_iff n hinv hno hclear

/-- Settles O57, by induction on the interleaving: a step at `j` advances machine `j` and leaves the others. -/
theorem instancesAreIndependent : Obligations.InstancesAreIndependent := by
  intro p ks k
  induction ks generalizing p with
  | nil => exact (congrFun Option.map_id _).symm
  | cons j ks ih =>
    refine (ih (p.stepAt j)).trans ?_
    obtain rfl | hjk := eq_or_ne j k
    · rw [Platform.stepAt_getElem?_same, Option.map_map, List.count_cons_self]
      rfl
    · rw [Platform.stepAt_getElem?_other p hjk, List.count_cons_of_ne hjk]

/-- Settles O15: a command that does not succeed raises OutOfRange (`exec_cases`), and raising it writes STATUS only. -/
theorem failedCommandChangesOnlyStatus : Obligations.FailedCommandChangesOnlyStatus := by
  intro i s t hexec hfailed
  obtain ⟨b0, b1, q, d, hdone⟩ | hraise := exec_cases i s
  · obtain rfl := eq_of_next hdone hexec
    exact absurd (State.respond_code _ d) hfailed
  · obtain rfl := eq_of_next hraise hexec
    rw [State.raise_code]
    exact s.raise_failedWith .outOfRange

/-- Settles O16: a command out of range raises OutOfRange (`exec_of_outOfRange`), every other one responds
(`exec_of_not_outOfRange`). -/
theorem onlyOutOfRangeOperandsFail : Obligations.OnlyOutOfRangeOperandsFail := by
  intro i s t hexec
  change _ ∧ (_ ↔ OutOfRange s.l i)
  by_cases hout : OutOfRange s.l i
  · obtain rfl := eq_of_next (exec_of_outOfRange hout) hexec
    have hcode : statusCode (s.raise .outOfRange).status = 1#4 := s.raise_code .outOfRange
    exact ⟨.inr hcode, iff_of_true hcode hout⟩
  · obtain ⟨u, d, hdone⟩ := exec_of_not_outOfRange hout
    obtain rfl := eq_of_next hdone hexec
    have hcode := u.respond_code d
    exact ⟨.inl hcode, iff_of_false (hcode.trans_ne (by decide)) hout⟩

end Sys2Proof.Proofs.Exceptions
end

section
/-! PROOFS. The statements of 70_reset_and_hazards.md: reset, an idle step, and a read right after a write. -/

namespace Sys2Proof.Machine

open Sys2Proof.Config

/-- Inside the cube, equal offsets are equal coordinates (20_memory.md R40). -/
theorem off_eq_iff_of_inCube {w x y z x' y' z' : Nat} (h : inCube w x y z = true) (h' : inCube w x' y' z' = true) :
    off w x y z = off w x' y' z' ↔ x = x' ∧ y = y' ∧ z = z' := by
  obtain ⟨hx, -, hz⟩ := inCube_iff.mp h
  obtain ⟨hx', -, hz'⟩ := inCube_iff.mp h'
  exact ⟨off_injective hx hz hx' hz', by rintro ⟨rfl, rfl, rfl⟩; rfl⟩

/-- The cube after MemWrite of one bit at a coordinate: that bit at the coordinate, the old bit at every other. -/
theorem State.memWrite_one_cube (s : State) {x y z x' y' z' : Nat} (h : inCube s.w x y z = true)
    (h' : inCube s.w x' y' z' = true) (v : Bool) :
    (s.memWrite (off s.w x y z) 1 (BitVec.ofBool v)).cube x' y' z' =
      if x' = x ∧ y' = y ∧ z' = z then v else s.cube x' y' z' :=
  (s.memWrite_one h v (off s.w x' y' z')).trans (if_congr (off_eq_iff_of_inCube h' h) rfl rfl)

end Sys2Proof.Machine

/-! ### The obligations -/

namespace Sys2Proof.Proofs.ResetAndHazards

open Sys2Proof.Machine Sys2Proof.Config

/-- Settles O50: both coordinates pass their check, RDBIT responds with the bit of the cube WRBIT leaves, and WRBIT's
write reaches its own coordinate only (`memWrite_one_cube`). -/
theorem readAfterWrite : Obligations.ReadAfterWrite := by
  intro s x y z x' y' z' v hx hy hz hx' hy' hz'
  have hin : inCube s.w x y z = true := inCube_iff.mpr ⟨hx, hy, hz⟩
  have hin' : inCube s.w x' y' z' = true := inCube_iff.mpr ⟨hx', hy', hz'⟩
  refine ⟨_, _, exec_wrbit_inside s v hin, exec_rdbit_inside _ hin', ?_⟩
  simp only [State.respond_cube, s.memWrite_one_cube hin hin', State.respond_resp, State.respond_status]

/-- Settles O9: the step serves nothing (`step_idle`). -/
theorem idleStepHoldsState : Obligations.IdleStepHoldsState := fun _ hidle => step_idle hidle

/-- Settles O10: the step takes the reset out of the coming actions and sets the reset values (`step_reset`). -/
theorem resetActionZeroesTheBlock : Obligations.ResetActionZeroesTheBlock := fun _ _ hreset => step_reset hreset

end Sys2Proof.Proofs.ResetAndHazards
end
